-- ==== Sys2Proof/Word.lean ====
section
/-! DEFINITION. The word types of the AVR core (00_scope.md R5, R7). -/

namespace Sys2Proof

/-- A general register, an I/O location, a data-space byte: 8 bits (R5). -/
abbrev Byte := BitVec 8

/-- A program-memory word (R5). -/
abbrev Word := BitVec 16

/-- The number of a general register, R0 to R31 (R21). -/
abbrev RegIx := Fin 32

/-- A bit number in a register, an I/O location or SREG (R8: `b` and `s`). -/
abbrev BitIx := Fin 8

/-- A program word address, as wide as the widest PC (R25). The machine keeps it reduced modulo
2^PC_BITS. -/
abbrev ProgAddr := BitVec 22

/-- A data-space address, as wide as the widest of them (R65). -/
abbrev DataAddr := BitVec 24

/-- A sparse byte memory: (address, byte) pairs; the canonical form is `Memory.wf`. -/
abbrev Memory := List Host.Cell

end Sys2Proof
end

