-- ==== Sys2Proof/Syntax.lean ====
section
/-! DEFINITION. The instructions of opcode_table.json, one constructor per row (30_encoding.md R113, R118).
Operands are register numbers, constants, addresses and bit numbers as the manual writes them (R8, R104 to R108); a
register operand of a restricted field is still a register number, and `Instr.wellFormed` says which of them the field
can name. The 45 alias rows (R113, R117) are constructors too; a decoder never produces them (log 17). -/

namespace Sys2Proof

/-- An instruction of the table. -/
inductive Instr where
  /-- ADD Rd,Rr (R143) -/
  | add (d : RegIx) (r : RegIx)
  /-- ADC Rd,Rr (R144) -/
  | adc (d : RegIx) (r : RegIx)
  /-- ADIW Rd+1:Rd,K, d in 24, 26, 28, 30 (R145) -/
  | adiw (d : RegIx) (K : BitVec 6)
  /-- SUB Rd,Rr (R146) -/
  | sub (d : RegIx) (r : RegIx)
  /-- SUBI Rd,K, 16 ≤ d (R147) -/
  | subi (d : RegIx) (K : Byte)
  /-- SBC Rd,Rr (R148) -/
  | sbc (d : RegIx) (r : RegIx)
  /-- SBCI Rd,K, 16 ≤ d (R149) -/
  | sbci (d : RegIx) (K : Byte)
  /-- SBIW Rd+1:Rd,K, d in 24, 26, 28, 30 (R150) -/
  | sbiw (d : RegIx) (K : BitVec 6)
  /-- AND Rd,Rr (R151) -/
  | and (d : RegIx) (r : RegIx)
  /-- ANDI Rd,K, 16 ≤ d (R152) -/
  | andi (d : RegIx) (K : Byte)
  /-- OR Rd,Rr (R153) -/
  | or (d : RegIx) (r : RegIx)
  /-- ORI Rd,K, 16 ≤ d (R154) -/
  | ori (d : RegIx) (K : Byte)
  /-- EOR Rd,Rr (R155) -/
  | eor (d : RegIx) (r : RegIx)
  /-- COM Rd (R156) -/
  | com (d : RegIx)
  /-- NEG Rd (R157) -/
  | neg (d : RegIx)
  /-- SBR Rd,K, another name of ORI (R158) -/
  | sbr (d : RegIx) (K : Byte)
  /-- CBR Rd,K, another name of ANDI Rd,0xFF-K (R159) -/
  | cbr (d : RegIx) (K : Byte)
  /-- INC Rd (R160) -/
  | inc (d : RegIx)
  /-- DEC Rd (R161) -/
  | dec (d : RegIx)
  /-- TST Rd, another name of AND Rd,Rd (R162) -/
  | tst (d : RegIx)
  /-- CLR Rd, another name of EOR Rd,Rd (R163) -/
  | clr (d : RegIx)
  /-- SER Rd, another name of LDI Rd,0xFF, 16 ≤ d (R164) -/
  | ser (d : RegIx)
  /-- MUL Rd,Rr (R165) -/
  | mul (d : RegIx) (r : RegIx)
  /-- MULS Rd,Rr, 16 ≤ d, r (R166) -/
  | muls (d : RegIx) (r : RegIx)
  /-- MULSU Rd,Rr, d and r in 16 to 23 (R167) -/
  | mulsu (d : RegIx) (r : RegIx)
  /-- FMUL Rd,Rr, d and r in 16 to 23 (R168) -/
  | fmul (d : RegIx) (r : RegIx)
  /-- FMULS Rd,Rr, d and r in 16 to 23 (R169) -/
  | fmuls (d : RegIx) (r : RegIx)
  /-- FMULSU Rd,Rr, d and r in 16 to 23 (R170) -/
  | fmulsu (d : RegIx) (r : RegIx)
  /-- DES K (R171) -/
  | des (K : BitVec 4)
  /-- RJMP k, k in two's complement (R202) -/
  | rjmp (k : BitVec 12)
  /-- IJMP (R203) -/
  | ijmp
  /-- EIJMP (R204) -/
  | eijmp
  /-- JMP k (R205) -/
  | jmp (k : BitVec 22)
  /-- RCALL k, k in two's complement (R206) -/
  | rcall (k : BitVec 12)
  /-- ICALL (R207) -/
  | icall
  /-- EICALL (R208) -/
  | eicall
  /-- CALL k (R209) -/
  | call (k : BitVec 22)
  /-- RET (R210) -/
  | ret
  /-- RETI (R211) -/
  | reti
  /-- CPSE Rd,Rr (R212) -/
  | cpse (d : RegIx) (r : RegIx)
  /-- CP Rd,Rr (R213) -/
  | cp (d : RegIx) (r : RegIx)
  /-- CPC Rd,Rr (R214) -/
  | cpc (d : RegIx) (r : RegIx)
  /-- CPI Rd,K, 16 ≤ d (R215) -/
  | cpi (d : RegIx) (K : Byte)
  /-- SBRC Rr,b (R216) -/
  | sbrc (r : RegIx) (b : BitIx)
  /-- SBRS Rr,b (R217) -/
  | sbrs (r : RegIx) (b : BitIx)
  /-- SBIC A,b (R218) -/
  | sbic (A : BitVec 5) (b : BitIx)
  /-- SBIS A,b (R219) -/
  | sbis (A : BitVec 5) (b : BitIx)
  /-- BRBS s,k (R220) -/
  | brbs (s : BitIx) (k : BitVec 7)
  /-- BRBC s,k (R221) -/
  | brbc (s : BitIx) (k : BitVec 7)
  /-- BREQ k, another name of BRBS 1,k (R222) -/
  | breq (k : BitVec 7)
  /-- BRNE k, another name of BRBC 1,k (R223) -/
  | brne (k : BitVec 7)
  /-- BRCS k, another name of BRBS 0,k (R224) -/
  | brcs (k : BitVec 7)
  /-- BRCC k, another name of BRBC 0,k (R225) -/
  | brcc (k : BitVec 7)
  /-- BRSH k, another name of BRBC 0,k (R226) -/
  | brsh (k : BitVec 7)
  /-- BRLO k, another name of BRBS 0,k (R227) -/
  | brlo (k : BitVec 7)
  /-- BRMI k, another name of BRBS 2,k (R228) -/
  | brmi (k : BitVec 7)
  /-- BRPL k, another name of BRBC 2,k (R229) -/
  | brpl (k : BitVec 7)
  /-- BRGE k, another name of BRBC 4,k (R230) -/
  | brge (k : BitVec 7)
  /-- BRLT k, another name of BRBS 4,k (R231) -/
  | brlt (k : BitVec 7)
  /-- BRHS k, another name of BRBS 5,k (R232) -/
  | brhs (k : BitVec 7)
  /-- BRHC k, another name of BRBC 5,k (R233) -/
  | brhc (k : BitVec 7)
  /-- BRTS k, another name of BRBS 6,k (R234) -/
  | brts (k : BitVec 7)
  /-- BRTC k, another name of BRBC 6,k (R235) -/
  | brtc (k : BitVec 7)
  /-- BRVS k, another name of BRBS 3,k (R236) -/
  | brvs (k : BitVec 7)
  /-- BRVC k, another name of BRBC 3,k (R237) -/
  | brvc (k : BitVec 7)
  /-- BRIE k, another name of BRBS 7,k (R238) -/
  | brie (k : BitVec 7)
  /-- BRID k, another name of BRBC 7,k (R239) -/
  | brid (k : BitVec 7)
  /-- MOV Rd,Rr (R261) -/
  | mov (d : RegIx) (r : RegIx)
  /-- MOVW Rd+1:Rd,Rr+1:Rr, d and r even (R262) -/
  | movw (d : RegIx) (r : RegIx)
  /-- LDI Rd,K, 16 ≤ d (R263) -/
  | ldi (d : RegIx) (K : Byte)
  /-- LDS Rd,k, two words (R264) -/
  | lds (d : RegIx) (k : Word)
  /-- LDS Rd,k, the 16-bit form of the Reduced Core, 16 ≤ d (R265) -/
  | lds16 (d : RegIx) (k : BitVec 7)
  /-- LD Rd,X (R266) -/
  | ldX (d : RegIx)
  /-- LD Rd,X+ (R267) -/
  | ldXInc (d : RegIx)
  /-- LD Rd,-X (R268) -/
  | ldXDec (d : RegIx)
  /-- LD Rd,Y, another name of LDD Rd,Y+0 (R269) -/
  | ldY (d : RegIx)
  /-- LD Rd,Y+ (R270) -/
  | ldYInc (d : RegIx)
  /-- LD Rd,-Y (R271) -/
  | ldYDec (d : RegIx)
  /-- LDD Rd,Y+q (R272) -/
  | lddY (d : RegIx) (q : BitVec 6)
  /-- LD Rd,Z, another name of LDD Rd,Z+0 (R273) -/
  | ldZ (d : RegIx)
  /-- LD Rd,Z+ (R274) -/
  | ldZInc (d : RegIx)
  /-- LD Rd,-Z (R275) -/
  | ldZDec (d : RegIx)
  /-- LDD Rd,Z+q (R276) -/
  | lddZ (d : RegIx) (q : BitVec 6)
  /-- STS k,Rr, two words (R277) -/
  | sts (k : Word) (r : RegIx)
  /-- STS k,Rr, the 16-bit form of the Reduced Core, 16 ≤ r (R278) -/
  | sts16 (k : BitVec 7) (r : RegIx)
  /-- ST X,Rr (R279) -/
  | stX (r : RegIx)
  /-- ST X+,Rr (R280) -/
  | stXInc (r : RegIx)
  /-- ST -X,Rr (R281) -/
  | stXDec (r : RegIx)
  /-- ST Y,Rr, another name of STD Y+0,Rr (R282) -/
  | stY (r : RegIx)
  /-- ST Y+,Rr (R283) -/
  | stYInc (r : RegIx)
  /-- ST -Y,Rr (R284) -/
  | stYDec (r : RegIx)
  /-- STD Y+q,Rr (R285) -/
  | stdY (q : BitVec 6) (r : RegIx)
  /-- ST Z,Rr, another name of STD Z+0,Rr (R286) -/
  | stZ (r : RegIx)
  /-- ST Z+,Rr (R287) -/
  | stZInc (r : RegIx)
  /-- ST -Z,Rr (R288) -/
  | stZDec (r : RegIx)
  /-- STD Z+q,Rr (R289) -/
  | stdZ (q : BitVec 6) (r : RegIx)
  /-- LPM, R0 implied (R320) -/
  | lpmR0
  /-- LPM Rd,Z (R321) -/
  | lpm (d : RegIx)
  /-- LPM Rd,Z+ (R322) -/
  | lpmZInc (d : RegIx)
  /-- ELPM, R0 implied (R323) -/
  | elpmR0
  /-- ELPM Rd,Z (R324) -/
  | elpm (d : RegIx)
  /-- ELPM Rd,Z+ (R325) -/
  | elpmZInc (d : RegIx)
  /-- SPM (R326) -/
  | spm
  /-- SPM Z+ (R327) -/
  | spmZInc
  /-- IN Rd,A (R328) -/
  | inp (d : RegIx) (A : BitVec 6)
  /-- OUT A,Rr (R329) -/
  | out (A : BitVec 6) (r : RegIx)
  /-- PUSH Rr (R330) -/
  | push (r : RegIx)
  /-- POP Rd (R331) -/
  | pop (d : RegIx)
  /-- XCH Z,Rd (R332) -/
  | xch (d : RegIx)
  /-- LAS Z,Rd (R333) -/
  | las (d : RegIx)
  /-- LAC Z,Rd (R334) -/
  | lac (d : RegIx)
  /-- LAT Z,Rd (R335) -/
  | lat (d : RegIx)
  /-- LSL Rd, another name of ADD Rd,Rd (R360) -/
  | lsl (d : RegIx)
  /-- LSR Rd (R361) -/
  | lsr (d : RegIx)
  /-- ROL Rd, another name of ADC Rd,Rd (R362) -/
  | rol (d : RegIx)
  /-- ROR Rd (R363) -/
  | ror (d : RegIx)
  /-- ASR Rd (R364) -/
  | asr (d : RegIx)
  /-- SWAP Rd (R365) -/
  | swap (d : RegIx)
  /-- BSET s (R366) -/
  | bset (s : BitIx)
  /-- BCLR s (R367) -/
  | bclr (s : BitIx)
  /-- SBI A,b (R368) -/
  | sbi (A : BitVec 5) (b : BitIx)
  /-- CBI A,b (R369) -/
  | cbi (A : BitVec 5) (b : BitIx)
  /-- BST Rd,b (R370) -/
  | bst (d : RegIx) (b : BitIx)
  /-- BLD Rd,b (R371) -/
  | bld (d : RegIx) (b : BitIx)
  /-- SEC, another name of BSET 0 (R372) -/
  | sec
  /-- CLC, another name of BCLR 0 (R373) -/
  | clc
  /-- SEN, another name of BSET 2 (R374) -/
  | sen
  /-- CLN, another name of BCLR 2 (R375) -/
  | cln
  /-- SEZ, another name of BSET 1 (R376) -/
  | sez
  /-- CLZ, another name of BCLR 1 (R377) -/
  | clz
  /-- SEI, another name of BSET 7 (R378) -/
  | sei
  /-- CLI, another name of BCLR 7 (R379) -/
  | cli
  /-- SES, another name of BSET 4 (R380) -/
  | ses
  /-- CLS, another name of BCLR 4 (R381) -/
  | cls
  /-- SEV, another name of BSET 3 (R382) -/
  | sev
  /-- CLV, another name of BCLR 3 (R383) -/
  | clv
  /-- SET, another name of BSET 6 (R384) -/
  | set
  /-- CLT, another name of BCLR 6 (R385) -/
  | clt
  /-- SEH, another name of BSET 5 (R386) -/
  | seh
  /-- CLH, another name of BCLR 5 (R387) -/
  | clh
  /-- BREAK (R420) -/
  | brk
  /-- NOP (R421) -/
  | nop
  /-- SLEEP (R422) -/
  | sleep
  /-- WDR (R423) -/
  | wdr
  deriving DecidableEq, Repr

/-- The optional rows of the table, the members of `Cfg.Avail` that a device may lack (R4, R6): every row the manual marks as
not available in all devices, each form of LD, LDD, ST and STD a row of its own (R260). -/
inductive OptionalRow where
  | adiw | sbiw | mul | muls | mulsu | fmul | fmuls | fmulsu | des
  | ijmp | eijmp | jmp | icall | eicall | call
  | movw | lds | lds16 | ldX | ldXInc | ldXDec | ldY | ldYInc | ldYDec | lddY | ldZ | ldZInc | ldZDec | lddZ
  | sts | sts16 | stX | stXInc | stXDec | stY | stYInc | stYDec | stdY | stZ | stZInc | stZDec | stdZ
  | lpmR0 | lpm | lpmZInc | elpmR0 | elpm | elpmZInc | spm | spmZInc | push | pop | xch | las | lac | lat
  | brk
  deriving DecidableEq, Repr

end Sys2Proof
end

