-- ==== Sys2Proof/Config.lean ====
section
/-! DEFINITION. The device configuration `Cfg` of 00_scope.md R4 as plain data, and the free values and parameter
functions of the spec as constants without a body, of which no proof can see what they are. -/

namespace Sys2Proof

/-- `CORE` (R4): the classic core, XMEGA, or the Reduced Core tinyAVR. -/
inductive Core where
  | avr | xmega | rc
  deriving DecidableEq, Repr

/-- `PC_BITS` (R4, R25): a width of 1 to 16 bits (`upTo16 n` is `n + 1` bits), the "16 bits PC" class with 2-byte return
addresses, or 22 bits with 3-byte return addresses. -/
inductive PcWidth where
  | upTo16 (n : Fin 16)
  | bits22
  deriving DecidableEq, Repr

/-- `DATA_BITS` (R4, R65). -/
inductive DataWidth where
  | bits8 | bits16 | bits24
  deriving DecidableEq, Repr

/-- `SP_BITS` (R4, R29). -/
inductive SpWidth where
  | bits8 | bits16
  deriving DecidableEq, Repr

/-- `NUM_REGS` (R4, R24). -/
inductive RegCount where
  | regs16 | regs32
  deriving DecidableEq, Repr

/-- What a region of the data space holds (R66). -/
inductive RegionKind where
  | reg | io | extIo | sram | flash
  deriving DecidableEq, Repr

/-- A region of `DataMap` (R66; log 24): the `size` data addresses from `base` are the registers, I/O locations,
extended I/O locations, SRAM bytes or program-memory bytes numbered from `start`. -/
structure Region where
  base : Nat
  size : Nat
  kind : RegionKind
  start : Nat
  deriving DecidableEq, Repr

/-- Which device stands behind the I/O space (R70): the reference byte store (log 6), or an external device, whose hooks are
the free functions below (log 9). -/
inductive DeviceKind where
  | reference | external
  deriving DecidableEq, Repr

/-- `Cfg.SpmOp` of R326 with its page size in words (log 11): a controller that does one of the operations the page lists
and nothing else, or the parameter function under its contract alone. -/
inductive SpmController where
  | listed (pageSize : Nat)
  | function (pageSize : Nat)
  deriving DecidableEq, Repr

/-- The device configuration of R4. `absent` holds the optional rows that are not in `Cfg.Avail` (R6; log 30); `desRound`
says whether `Cfg.DesRound` is present; `spmOp` is `Cfg.SpmOp`, `none` when it is absent (log 11). -/
structure Config where
  core : Core
  pcWidth : PcWidth
  flashEnd : Nat
  ramEnd : Nat
  dataWidth : DataWidth
  progGt64k : Bool
  absent : List OptionalRow
  numRegs : RegCount
  dataMap : List Region
  ioSreg : BitVec 6
  ioSpl : BitVec 6
  ioSph : BitVec 6
  ioRampD : BitVec 6
  ioRampX : BitVec 6
  ioRampY : BitVec 6
  ioRampZ : BitVec 6
  ioEind : BitVec 6
  spWidth : SpWidth
  spReset : Word
  resetPc : ProgAddr
  ocdEnabled : Bool
  device : DeviceKind
  desRound : Bool
  spmOp : Option SpmController
  deriving DecidableEq, Repr

/-- An interrupt request (R434): its source, and the program word address of its handler. -/
structure Request where
  source : Nat
  vector : ProgAddr
  deriving DecidableEq, Repr

/-- A location of the device (R70): an I/O location that is no CPU register, or an extended I/O location (R66). -/
inductive IoLoc where
  | io (A : BitVec 6)
  | ext (e : Nat)
  deriving DecidableEq, Repr

/-- The two opcodes of the SPM pages (R326, R327). -/
inductive SpmForm where
  | spm | spmZInc
  deriving DecidableEq, Repr

/-- What one execution of SPM does: the operations (i) to (v) of R326, or nothing. Which one it is, is selected by a
device register the manual does not define. -/
inductive SpmAction where
  | erasePage | writeWord | fillBuffer | writePage | setLockBits | nothing
  deriving DecidableEq, Repr, Inhabited

/-! ### Free values (R36, R61, R66, R70): what was never written -/

/-- The unspecified value of an SRAM byte: the number of resets so far, the byte's number (log 4). -/
opaque Config.sramByte : Nat → Nat → Byte

/-- The unspecified value of a program-memory byte the loaded image does not define (log 5). -/
opaque Config.progByte : Nat → Byte

/-- The unspecified value of a device location never written since the reset of this number (log 6). -/
opaque Config.deviceByte : Nat → IoLoc → Byte

/-- The unspecified value of a general register after the reset of this number (log 7). -/
opaque Config.resetRegister : Nat → RegIx → Byte

/-- The unspecified value of a byte of SPM's temporary page buffer that nothing filled (log 11). -/
opaque Config.pageBufferByte : Nat → Nat → Byte

/-! ### Parameter functions (R4) -/

/-- DES encryption under a key, a permutation of the data block; decryption is its inverse (R171; log 10). -/
opaque Config.desCipher : BitVec 64 → Equiv.Perm (BitVec 64)

/-- The rounds of `Cfg.DesRound` but the last: H flag and round number to a permutation of data and key (R171; log 10). -/
opaque Config.desStep : Bool → Nat → Equiv.Perm (BitVec 64 × BitVec 64)

/-- The choice of a listed SPM controller among the operations of R326 (log 11): the form, the 24-bit byte address, R1:R0, the
device's bytes and its private state. -/
opaque Config.spmAction : SpmForm → BitVec 24 → Word → Memory → Nat → SpmAction

/-- The private state of the device after an SPM of a listed controller (R326; log 11). -/
opaque Config.spmHidden : SpmForm → BitVec 24 → Word → Nat → Nat

/-! ### The hooks of an external device (R70; log 9), over its private state -/

/-- `Device.read`. -/
opaque Config.deviceRead : IoLoc → Nat → Byte × Nat
/-- `Device.write`. -/
opaque Config.deviceWrite : IoLoc → Byte → Nat → Nat
/-- `Device.setbit`. -/
opaque Config.deviceSetBit : BitVec 5 → BitIx → Nat → Nat
/-- `Device.clrbit`. -/
opaque Config.deviceClrBit : BitVec 5 → BitIx → Nat → Nat
/-- `Device.irq`. -/
opaque Config.deviceIrq : Nat → Option Request
/-- `Device.ack`. -/
opaque Config.deviceAck : Nat → Nat → Nat
/-- `Device.tick`. -/
opaque Config.deviceTick : Nat → Nat
/-- `Device.wdr`. -/
opaque Config.deviceWdr : Nat → Nat
/-- `Device.sleep_enabled`. -/
opaque Config.deviceSleepEnabled : Nat → Bool
/-- `Device.reset_requested`. -/
opaque Config.deviceResetRequested : Nat → Bool
/-- The device's own reset state (R36, R470), from its state before the reset. -/
opaque Config.deviceReset : Nat → Nat

end Sys2Proof
end

