-- ==== Sys2Proof/WellFormed.lean ====
section
/-! DEFINITION. Which instructions the encodings can carry: the operand ranges printed on the instruction pages
(10_state.md R21, 30_encoding.md R104). -/

namespace Sys2Proof

/-- The registers a 4-bit field names: R16 to R31 (R104). -/
def RegIx.isUpper (d : RegIx) : Bool := decide (16 ≤ d.val)

/-- The registers a 3-bit field names: R16 to R23 (R104). -/
def RegIx.isMiddle (d : RegIx) : Bool := decide (16 ≤ d.val ∧ d.val < 24)

/-- The low registers of the pairs of ADIW and SBIW: R24, R26, R28, R30 (R104). -/
def RegIx.isWordPair (d : RegIx) : Bool := decide (24 ≤ d.val ∧ d.val % 2 = 0)

/-- The low registers of the pairs of MOVW (R104). -/
def RegIx.isEven (d : RegIx) : Bool := decide (d.val % 2 = 0)

/-- The operand ranges of every instruction (R21). -/
def Instr.wellFormed : Instr → Bool
  | .add _ _ | .adc _ _ | .sub _ _ | .sbc _ _ | .and _ _ | .or _ _ | .eor _ _ | .com _ | .neg _ | .inc _
  | .dec _ | .tst _ | .clr _ | .mul _ _ | .des _ | .rjmp _ | .ijmp | .eijmp | .jmp _ | .rcall _ | .icall
  | .eicall | .call _ | .ret | .reti | .cpse _ _ | .cp _ _ | .cpc _ _ | .sbrc _ _ | .sbrs _ _ | .sbic _ _
  | .sbis _ _ | .brbs _ _ | .brbc _ _ | .breq _ | .brne _ | .brcs _ | .brcc _ | .brsh _ | .brlo _ | .brmi _
  | .brpl _ | .brge _ | .brlt _ | .brhs _ | .brhc _ | .brts _ | .brtc _ | .brvs _ | .brvc _ | .brie _
  | .brid _ | .mov _ _ | .lds _ _ | .ldX _ | .ldXInc _ | .ldXDec _ | .ldY _ | .ldYInc _ | .ldYDec _
  | .lddY _ _ | .ldZ _ | .ldZInc _ | .ldZDec _ | .lddZ _ _ | .sts _ _ | .stX _ | .stXInc _ | .stXDec _
  | .stY _ | .stYInc _ | .stYDec _ | .stdY _ _ | .stZ _ | .stZInc _ | .stZDec _ | .stdZ _ _ | .lpmR0 | .lpm _
  | .lpmZInc _ | .elpmR0 | .elpm _ | .elpmZInc _ | .spm | .spmZInc | .inp _ _ | .out _ _ | .push _ | .pop _
  | .xch _ | .las _ | .lac _ | .lat _ | .lsl _ | .lsr _ | .rol _ | .ror _ | .asr _ | .swap _ | .bset _
  | .bclr _ | .sbi _ _ | .cbi _ _ | .bst _ _ | .bld _ _ | .sec | .clc | .sen | .cln | .sez | .clz | .sei
  | .cli | .ses | .cls | .sev | .clv | .set | .clt | .seh | .clh | .brk | .nop | .sleep | .wdr => true
  | .adiw d _ | .sbiw d _ => d.isWordPair
  | .subi d _ | .sbci d _ | .andi d _ | .ori d _ | .sbr d _ | .cbr d _ | .ser d | .cpi d _ | .ldi d _
  | .lds16 d _ => d.isUpper
  | .muls d r => d.isUpper && r.isUpper
  | .mulsu d r | .fmul d r | .fmuls d r | .fmulsu d r => d.isMiddle && r.isMiddle
  | .movw d r => d.isEven && r.isEven
  | .sts16 _ r => r.isUpper

/-- Which encodings exist on which core variant (R112): LDS and STS (16-bit) only on the Reduced Core, and there the
words they occupy are those of LDD and STD with displacement bit 5 set. -/
def Instr.encodableOn (core : Core) : Instr → Bool
  | .add _ _ | .adc _ _ | .adiw _ _ | .sub _ _ | .subi _ _ | .sbc _ _ | .sbci _ _ | .sbiw _ _ | .and _ _
  | .andi _ _ | .or _ _ | .ori _ _ | .eor _ _ | .com _ | .neg _ | .sbr _ _ | .cbr _ _ | .inc _ | .dec _
  | .tst _ | .clr _ | .ser _ | .mul _ _ | .muls _ _ | .mulsu _ _ | .fmul _ _ | .fmuls _ _ | .fmulsu _ _
  | .des _ | .rjmp _ | .ijmp | .eijmp | .jmp _ | .rcall _ | .icall | .eicall | .call _ | .ret | .reti
  | .cpse _ _ | .cp _ _ | .cpc _ _ | .cpi _ _ | .sbrc _ _ | .sbrs _ _ | .sbic _ _ | .sbis _ _ | .brbs _ _
  | .brbc _ _ | .breq _ | .brne _ | .brcs _ | .brcc _ | .brsh _ | .brlo _ | .brmi _ | .brpl _ | .brge _
  | .brlt _ | .brhs _ | .brhc _ | .brts _ | .brtc _ | .brvs _ | .brvc _ | .brie _ | .brid _ | .mov _ _
  | .movw _ _ | .ldi _ _ | .lds _ _ | .ldX _ | .ldXInc _ | .ldXDec _ | .ldY _ | .ldYInc _ | .ldYDec _ | .ldZ _
  | .ldZInc _ | .ldZDec _ | .sts _ _ | .stX _ | .stXInc _ | .stXDec _ | .stY _ | .stYInc _ | .stYDec _
  | .stZ _ | .stZInc _ | .stZDec _ | .lpmR0 | .lpm _ | .lpmZInc _ | .elpmR0 | .elpm _ | .elpmZInc _ | .spm
  | .spmZInc | .inp _ _ | .out _ _ | .push _ | .pop _ | .xch _ | .las _ | .lac _ | .lat _ | .lsl _ | .lsr _
  | .rol _ | .ror _ | .asr _ | .swap _ | .bset _ | .bclr _ | .sbi _ _ | .cbi _ _ | .bst _ _ | .bld _ _ | .sec
  | .clc | .sen | .cln | .sez | .clz | .sei | .cli | .ses | .cls | .sev | .clv | .set | .clt | .seh | .clh
  | .brk | .nop | .sleep | .wdr => true
  | .lds16 _ _ | .sts16 _ _ => decide (core = .rc)
  | .lddY _ q | .lddZ _ q | .stdY q _ | .stdZ q _ => decide (core ≠ .rc) || decide (q.toNat < 32)

end Sys2Proof
end

