-- ==== Sys2Proof/Decode.lean ====
section
/-! DEFINITION. The decoder and the encoder (30_encoding.md R100 to R114), over the words as numbers: a field of the word
`n` is `n / 2^lo % 2^width`. -/

namespace Sys2Proof

/-! ### Fields (R102) -/

/-- The register a number names. -/
def regOf (n : Nat) : RegIx := Fin.ofNat 32 n

/-- The bit a number names. -/
def bitOf (n : Nat) : BitIx := Fin.ofNat 8 n

/-- d = w[8:4]: the 5-bit destination field (R104). -/
def fieldD (n : Nat) : RegIx := regOf (n / 16 % 32)

/-- r = w[9] : w[3:0]: the 5-bit source field of the two-register format (R104). -/
def fieldR (n : Nat) : RegIx := regOf (n / 512 % 2 * 16 + n % 16)

/-- d = 16 + w[7:4] (R104). -/
def fieldUpper (n : Nat) : RegIx := regOf (16 + n / 16 % 16)

/-- r = 16 + w[3:0] of MULS (R104). -/
def fieldUpperLow (n : Nat) : RegIx := regOf (16 + n % 16)

/-- d = 24 + 2 * w[5:4] of ADIW and SBIW (R104). -/
def fieldPair (n : Nat) : RegIx := regOf (24 + 2 * (n / 16 % 4))

/-- K = w[11:8] : w[3:0] (R105). -/
def fieldK8 (n : Nat) : Byte := BitVec.ofNat 8 (n / 256 % 16 * 16 + n % 16)

/-- K = w[7:6] : w[3:0] (R105). -/
def fieldK6 (n : Nat) : BitVec 6 := BitVec.ofNat 6 (n / 64 % 4 * 16 + n % 16)

/-- q = w[13] : w[11:10] : w[2:0] (R107). -/
def fieldQ (n : Nat) : BitVec 6 := BitVec.ofNat 6 (n / 8192 % 2 * 32 + n / 1024 % 4 * 8 + n % 8)

/-- A = w[10:9] : w[3:0] of IN and OUT (R108). -/
def fieldA6 (n : Nat) : BitVec 6 := BitVec.ofNat 6 (n / 512 % 4 * 16 + n % 16)

/-- A = w[7:3] of SBI, CBI, SBIC, SBIS (R108). -/
def fieldA5 (n : Nat) : BitVec 5 := BitVec.ofNat 5 (n / 8 % 32)

/-- b = w[2:0], and s = w[2:0] of BRBS and BRBC (R108). -/
def fieldB (n : Nat) : BitIx := bitOf (n % 8)

/-- s = w[6:4] of BSET and BCLR (R108). -/
def fieldS (n : Nat) : BitIx := bitOf (n / 16 % 8)

/-- The 12-bit displacement of RJMP and RCALL, w[11:0] (R106). -/
def fieldK12 (n : Nat) : BitVec 12 := BitVec.ofNat 12 (n % 4096)

/-- The 7-bit displacement of the conditional branches, w[9:3] (R106). -/
def fieldK7 (n : Nat) : BitVec 7 := BitVec.ofNat 7 (n / 8 % 128)

/-- k = w[8:4] : w[0] : w2[15:0] of JMP and CALL (R106). -/
def fieldK22 (n n2 : Nat) : BitVec 22 := BitVec.ofNat 22 (n / 16 % 32 * 131072 + n % 2 * 65536 + n2)

/-- k = w[10:8] : w[3:0] of LDS and STS (16-bit) (R106). -/
def fieldK16bit (n : Nat) : BitVec 7 := BitVec.ofNat 7 (n / 256 % 8 * 16 + n % 16)

/-! ### The opcode map (R109 to R112) -/

/-- Bits 15..12 = 0000 (R109). -/
def decode0 (n : Nat) : Option Instr :=
  if n / 1024 = 0 then
    if n / 256 = 0 then if n % 256 = 0 then some .nop else none
    else if n / 256 = 1 then some (.movw (regOf (2 * (n / 16 % 16))) (regOf (2 * (n % 16))))
    else if n / 256 = 2 then some (.muls (fieldUpper n) (fieldUpperLow n))
    else
      let d := regOf (16 + n / 16 % 8)
      let r := regOf (16 + n % 8)
      if n / 128 % 2 = 0 then
        if n / 8 % 2 = 0 then some (.mulsu d r) else some (.fmul d r)
      else if n / 8 % 2 = 0 then some (.fmuls d r) else some (.fmulsu d r)
  else if n / 1024 = 1 then some (.cpc (fieldD n) (fieldR n))
  else if n / 1024 = 2 then some (.sbc (fieldD n) (fieldR n))
  else some (.add (fieldD n) (fieldR n))

/-- Bits 15..12 = 0001 (R109). -/
def decode1 (n : Nat) : Option Instr :=
  if n / 1024 = 4 then some (.cpse (fieldD n) (fieldR n))
  else if n / 1024 = 5 then some (.cp (fieldD n) (fieldR n))
  else if n / 1024 = 6 then some (.sub (fieldD n) (fieldR n))
  else some (.adc (fieldD n) (fieldR n))

/-- Bits 15..12 = 0010 (R109). -/
def decode2 (n : Nat) : Option Instr :=
  if n / 1024 = 8 then some (.and (fieldD n) (fieldR n))
  else if n / 1024 = 9 then some (.eor (fieldD n) (fieldR n))
  else if n / 1024 = 10 then some (.or (fieldD n) (fieldR n))
  else some (.mov (fieldD n) (fieldR n))

/-- Words `10q0 qqod dddd oqqq` (R109): bit 9 selects load or store, bit 3 the pointer (R107). -/
def decodeDisplacement (n : Nat) : Option Instr :=
  if n / 512 % 2 = 0 then
    if n / 8 % 2 = 1 then some (.lddY (fieldD n) (fieldQ n)) else some (.lddZ (fieldD n) (fieldQ n))
  else if n / 8 % 2 = 1 then some (.stdY (fieldQ n) (fieldD n)) else some (.stdZ (fieldQ n) (fieldD n))

/-- Words `1010 xxxx xxxx xxxx` of the Reduced Core (R112). -/
def decode16Bit (n : Nat) : Option Instr :=
  if n / 2048 % 2 = 0 then some (.lds16 (fieldUpper n) (fieldK16bit n))
  else some (.sts16 (fieldK16bit n) (fieldUpper n))

/-- The load group `1001 000d dddd nnnn` (R110). -/
def decodeLoad (n n2 : Nat) : Option Instr :=
  match n % 16 with
  | 0 => some (.lds (fieldD n) (BitVec.ofNat 16 n2))
  | 1 => some (.ldZInc (fieldD n))
  | 2 => some (.ldZDec (fieldD n))
  | 4 => some (.lpm (fieldD n))
  | 5 => some (.lpmZInc (fieldD n))
  | 6 => some (.elpm (fieldD n))
  | 7 => some (.elpmZInc (fieldD n))
  | 9 => some (.ldYInc (fieldD n))
  | 10 => some (.ldYDec (fieldD n))
  | 12 => some (.ldX (fieldD n))
  | 13 => some (.ldXInc (fieldD n))
  | 14 => some (.ldXDec (fieldD n))
  | 15 => some (.pop (fieldD n))
  | _ => none

/-- The store group `1001 001r rrrr nnnn` (R110). -/
def decodeStore (n n2 : Nat) : Option Instr :=
  match n % 16 with
  | 0 => some (.sts (BitVec.ofNat 16 n2) (fieldD n))
  | 1 => some (.stZInc (fieldD n))
  | 2 => some (.stZDec (fieldD n))
  | 4 => some (.xch (fieldD n))
  | 5 => some (.las (fieldD n))
  | 6 => some (.lac (fieldD n))
  | 7 => some (.lat (fieldD n))
  | 9 => some (.stYInc (fieldD n))
  | 10 => some (.stYDec (fieldD n))
  | 12 => some (.stX (fieldD n))
  | 13 => some (.stXInc (fieldD n))
  | 14 => some (.stXDec (fieldD n))
  | 15 => some (.push (fieldD n))
  | _ => none

/-- The words `1001 0101 xxxx 1000` (R111), by bits 7..4. -/
def decodeMisc (n : Nat) : Option Instr :=
  match n / 16 % 16 with
  | 0 => some .ret
  | 1 => some .reti
  | 8 => some .sleep
  | 9 => some .brk
  | 10 => some .wdr
  | 12 => some .lpmR0
  | 13 => some .elpmR0
  | 14 => some .spm
  | 15 => some .spmZInc
  | _ => none

/-- The indirect jumps and calls `1001 010x xxxx 1001` (R111), by bits 8..4. -/
def decodeIndirect (n : Nat) : Option Instr :=
  match n / 16 % 32 with
  | 0 => some .ijmp
  | 1 => some .eijmp
  | 16 => some .icall
  | 17 => some .eicall
  | _ => none

/-- The one-operand and miscellaneous group `1001 010x xxxx nnnn` (R111). -/
def decodeOne (n n2 : Nat) : Option Instr :=
  match n % 16 with
  | 0 => some (.com (fieldD n))
  | 1 => some (.neg (fieldD n))
  | 2 => some (.swap (fieldD n))
  | 3 => some (.inc (fieldD n))
  | 5 => some (.asr (fieldD n))
  | 6 => some (.lsr (fieldD n))
  | 7 => some (.ror (fieldD n))
  | 8 =>
    if n / 256 % 2 = 0 then
      if n / 128 % 2 = 0 then some (.bset (fieldS n)) else some (.bclr (fieldS n))
    else decodeMisc n
  | 9 => decodeIndirect n
  | 10 => some (.dec (fieldD n))
  | 11 => if n / 256 % 2 = 0 then some (.des (BitVec.ofNat 4 (n / 16 % 16))) else none
  | 12 => some (.jmp (fieldK22 n n2))
  | 13 => some (.jmp (fieldK22 n n2))
  | 14 => some (.call (fieldK22 n n2))
  | 15 => some (.call (fieldK22 n n2))
  | _ => none

/-- Bits 15..12 = 1001 (R109), by bits 11..8. -/
def decode9 (n n2 : Nat) : Option Instr :=
  match n / 256 % 16 with
  | 0 => decodeLoad n n2
  | 1 => decodeLoad n n2
  | 2 => decodeStore n n2
  | 3 => decodeStore n n2
  | 4 => decodeOne n n2
  | 5 => decodeOne n n2
  | 6 => some (.adiw (fieldPair n) (fieldK6 n))
  | 7 => some (.sbiw (fieldPair n) (fieldK6 n))
  | 8 => some (.cbi (fieldA5 n) (fieldB n))
  | 9 => some (.sbic (fieldA5 n) (fieldB n))
  | 10 => some (.sbi (fieldA5 n) (fieldB n))
  | 11 => some (.sbis (fieldA5 n) (fieldB n))
  | _ => some (.mul (fieldD n) (fieldR n))

/-- Bits 15..12 = 1111 (R109). -/
def decode15 (n : Nat) : Option Instr :=
  if n / 1024 = 60 then some (.brbs (fieldB n) (fieldK7 n))
  else if n / 1024 = 61 then some (.brbc (fieldB n) (fieldK7 n))
  else if n / 8 % 2 = 1 then none
  else if n / 512 = 124 then some (.bld (fieldD n) (fieldB n))
  else if n / 512 = 125 then some (.bst (fieldD n) (fieldB n))
  else if n / 512 = 126 then some (.sbrc (fieldD n) (fieldB n))
  else some (.sbrs (fieldD n) (fieldB n))

/-- The opcode map (R109) of a core variant: the canonical instruction of the first word `n`, with `n2` its second word
where it has one; `none` for the unallocated words of R114. -/
def decodeNat (core : Core) (n n2 : Nat) : Option Instr :=
  match n / 4096 with
  | 0 => decode0 n
  | 1 => decode1 n
  | 2 => decode2 n
  | 3 => some (.cpi (fieldUpper n) (fieldK8 n))
  | 4 => some (.sbci (fieldUpper n) (fieldK8 n))
  | 5 => some (.subi (fieldUpper n) (fieldK8 n))
  | 6 => some (.ori (fieldUpper n) (fieldK8 n))
  | 7 => some (.andi (fieldUpper n) (fieldK8 n))
  | 8 => decodeDisplacement n
  | 9 => decode9 n n2
  | 10 => if core = .rc then decode16Bit n else decodeDisplacement n
  | 11 =>
    if n / 2048 % 2 = 0 then some (.inp (fieldD n) (fieldA6 n)) else some (.out (fieldA6 n) (fieldD n))
  | 12 => some (.rjmp (fieldK12 n))
  | 13 => some (.rcall (fieldK12 n))
  | 14 => some (.ldi (fieldUpper n) (fieldK8 n))
  | 15 => decode15 n
  | _ => none

/-- The decoder over words. -/
def decode (core : Core) (w w2 : Word) : Option Instr := decodeNat core w.toNat w2.toNat

/-- The length test of R103, on the bit pattern alone: the first word of LDS, STS, JMP or CALL. -/
def isTwoWord (w : Word) : Bool :=
  w &&& 0xFE0F#16 == 0x9000#16 || w &&& 0xFE0F#16 == 0x9200#16 ||
  w &&& 0xFE0E#16 == 0x940C#16 || w &&& 0xFE0E#16 == 0x940E#16

/-- Two bytes as a program word, the low byte at the lower byte address (R62). -/
def wordOf (lo hi : Byte) : Word := hi ++ lo

/-- What the decoder answers on a list of bytes. -/
inductive Decoded where
  /-- An instruction, and the bytes after it. -/
  | instr (i : Instr) (rest : List Byte)
  /-- The first word is no instruction (R114). -/
  | unallocated (w : Word)
  /-- The bytes end before the instruction does. -/
  | truncated
  deriving DecidableEq, Repr

/-- The decoder over bytes as program memory holds them: total, rejecting by name. -/
def decodeBytes (core : Core) : List Byte → Decoded
  | b0 :: b1 :: rest =>
    let w := wordOf b0 b1
    match decode core w 0 with
    | none => .unallocated w
    | some i =>
      if isTwoWord w then
        match rest with
        | b2 :: b3 :: rest2 =>
          match decode core w (wordOf b2 b3) with
          | none => .unallocated w
          | some j => .instr j rest2
        | _ => .truncated
      else .instr i rest
  | _ => .truncated

/-- The bytes of a table word of `nbits` bits, two words long, the bits above `nbits` zero: the first word is bits
15..0, the second bits 31..16, each low byte first. -/
def tableBytes (nbits w : Nat) : List Byte :=
  let n := w % 2 ^ nbits
  [BitVec.ofNat 8 n, BitVec.ofNat 8 (n / 256), BitVec.ofNat 8 (n / 65536), BitVec.ofNat 8 (n / 16777216)]

/-- The instruction the decoder of the classic core reads from a table word (log 18). -/
def decodeTableWord (nbits w : Nat) : Option Instr :=
  match decodeBytes .avr (tableBytes nbits w) with
  | .instr i _ => some i
  | _ => none

/-! ### The encoder (R101, R102) -/

/-- Format `RdRr`. -/
def encRdRr (op : Nat) (d r : RegIx) : Nat := op + r.val / 16 * 512 + d.val * 16 + r.val % 16

/-- Format `Rd`. -/
def encRd (op : Nat) (d : RegIx) : Nat := op + d.val * 16

/-- Format `RdK8`. -/
def encRdK8 (op : Nat) (d : RegIx) (K : Byte) : Nat := op + K.toNat / 16 * 256 + d.val % 16 * 16 + K.toNat % 16

/-- Format `RpK6`. -/
def encRpK6 (op : Nat) (d : RegIx) (K : BitVec 6) : Nat :=
  op + K.toNat / 16 * 64 + d.val / 2 % 4 * 16 + K.toNat % 16

/-- Format `Rd4Rr4`. -/
def encRd4Rr4 (op : Nat) (d r : RegIx) : Nat := op + d.val % 16 * 16 + r.val % 16

/-- Format `Rp4Rp4`. -/
def encRp4Rp4 (op : Nat) (d r : RegIx) : Nat := op + d.val / 2 * 16 + r.val / 2

/-- Format `Rd3Rr3`. -/
def encRd3Rr3 (op : Nat) (d r : RegIx) : Nat := op + d.val % 8 * 16 + r.val % 8

/-- Format `sk7`. -/
def encSk7 (op : Nat) (s : BitIx) (k : BitVec 7) : Nat := op + k.toNat * 8 + s.val

/-- Format `Rb`. -/
def encRb (op : Nat) (d : RegIx) (b : BitIx) : Nat := op + d.val * 16 + b.val

/-- Format `A5b`. -/
def encA5b (op : Nat) (A : BitVec 5) (b : BitIx) : Nat := op + A.toNat * 8 + b.val

/-- Format `RdA6`. -/
def encRdA6 (op : Nat) (d : RegIx) (A : BitVec 6) : Nat := op + A.toNat / 16 * 512 + d.val * 16 + A.toNat % 16

/-- Format `Rdq`. -/
def encRdq (op : Nat) (d : RegIx) (q : BitVec 6) : Nat :=
  op + q.toNat / 32 * 8192 + q.toNat / 8 % 4 * 1024 + d.val * 16 + q.toNat % 8

/-- Format `Rdk7`. -/
def encRdk7 (op : Nat) (d : RegIx) (k : BitVec 7) : Nat := op + k.toNat / 16 * 256 + d.val % 16 * 16 + k.toNat % 16

/-- Format `s`. -/
def encS (op : Nat) (s : BitIx) : Nat := op + s.val * 16

/-- The first word of format `k22`. -/
def encK22 (op : Nat) (k : BitVec 22) : Nat := op + k.toNat / 131072 * 16 + k.toNat / 65536 % 2

/-- A one-word instruction. -/
def oneWord (n : Nat) : List Word := [BitVec.ofNat 16 n]

/-- A two-word instruction, the word printed first at the lower address (R63). -/
def twoWords (n n2 : Nat) : List Word := [BitVec.ofNat 16 n, BitVec.ofNat 16 n2]

/-- The words of an instruction (R101, R102; opcodes of R109 to R111). An alias has the words of the canonical
instruction it names (R117). -/
def encode : Instr → List Word
  | .add d r => oneWord (encRdRr 0x0C00 d r)
  | .adc d r => oneWord (encRdRr 0x1C00 d r)
  | .adiw d K => oneWord (encRpK6 0x9600 d K)
  | .sub d r => oneWord (encRdRr 0x1800 d r)
  | .subi d K => oneWord (encRdK8 0x5000 d K)
  | .sbc d r => oneWord (encRdRr 0x0800 d r)
  | .sbci d K => oneWord (encRdK8 0x4000 d K)
  | .sbiw d K => oneWord (encRpK6 0x9700 d K)
  | .and d r => oneWord (encRdRr 0x2000 d r)
  | .andi d K => oneWord (encRdK8 0x7000 d K)
  | .or d r => oneWord (encRdRr 0x2800 d r)
  | .ori d K => oneWord (encRdK8 0x6000 d K)
  | .eor d r => oneWord (encRdRr 0x2400 d r)
  | .com d => oneWord (encRd 0x9400 d)
  | .neg d => oneWord (encRd 0x9401 d)
  | .sbr d K => oneWord (encRdK8 0x6000 d K)
  | .cbr d K => oneWord (encRdK8 0x7000 d (0xFF - K))
  | .inc d => oneWord (encRd 0x9403 d)
  | .dec d => oneWord (encRd 0x940A d)
  | .tst d => oneWord (encRdRr 0x2000 d d)
  | .clr d => oneWord (encRdRr 0x2400 d d)
  | .ser d => oneWord (encRdK8 0xE000 d 0xFF)
  | .mul d r => oneWord (encRdRr 0x9C00 d r)
  | .muls d r => oneWord (encRd4Rr4 0x0200 d r)
  | .mulsu d r => oneWord (encRd3Rr3 0x0300 d r)
  | .fmul d r => oneWord (encRd3Rr3 0x0308 d r)
  | .fmuls d r => oneWord (encRd3Rr3 0x0380 d r)
  | .fmulsu d r => oneWord (encRd3Rr3 0x0388 d r)
  | .des K => oneWord (0x940B + K.toNat * 16)
  | .rjmp k => oneWord (0xC000 + k.toNat)
  | .ijmp => oneWord 0x9409
  | .eijmp => oneWord 0x9419
  | .jmp k => twoWords (encK22 0x940C k) (k.toNat % 65536)
  | .rcall k => oneWord (0xD000 + k.toNat)
  | .icall => oneWord 0x9509
  | .eicall => oneWord 0x9519
  | .call k => twoWords (encK22 0x940E k) (k.toNat % 65536)
  | .ret => oneWord 0x9508
  | .reti => oneWord 0x9518
  | .cpse d r => oneWord (encRdRr 0x1000 d r)
  | .cp d r => oneWord (encRdRr 0x1400 d r)
  | .cpc d r => oneWord (encRdRr 0x0400 d r)
  | .cpi d K => oneWord (encRdK8 0x3000 d K)
  | .sbrc r b => oneWord (encRb 0xFC00 r b)
  | .sbrs r b => oneWord (encRb 0xFE00 r b)
  | .sbic A b => oneWord (encA5b 0x9900 A b)
  | .sbis A b => oneWord (encA5b 0x9B00 A b)
  | .brbs s k => oneWord (encSk7 0xF000 s k)
  | .brbc s k => oneWord (encSk7 0xF400 s k)
  | .breq k => oneWord (encSk7 0xF001 0 k)
  | .brne k => oneWord (encSk7 0xF401 0 k)
  | .brcs k => oneWord (encSk7 0xF000 0 k)
  | .brcc k => oneWord (encSk7 0xF400 0 k)
  | .brsh k => oneWord (encSk7 0xF400 0 k)
  | .brlo k => oneWord (encSk7 0xF000 0 k)
  | .brmi k => oneWord (encSk7 0xF002 0 k)
  | .brpl k => oneWord (encSk7 0xF402 0 k)
  | .brge k => oneWord (encSk7 0xF404 0 k)
  | .brlt k => oneWord (encSk7 0xF004 0 k)
  | .brhs k => oneWord (encSk7 0xF005 0 k)
  | .brhc k => oneWord (encSk7 0xF405 0 k)
  | .brts k => oneWord (encSk7 0xF006 0 k)
  | .brtc k => oneWord (encSk7 0xF406 0 k)
  | .brvs k => oneWord (encSk7 0xF003 0 k)
  | .brvc k => oneWord (encSk7 0xF403 0 k)
  | .brie k => oneWord (encSk7 0xF007 0 k)
  | .brid k => oneWord (encSk7 0xF407 0 k)
  | .mov d r => oneWord (encRdRr 0x2C00 d r)
  | .movw d r => oneWord (encRp4Rp4 0x0100 d r)
  | .ldi d K => oneWord (encRdK8 0xE000 d K)
  | .lds d k => twoWords (encRd 0x9000 d) k.toNat
  | .lds16 d k => oneWord (encRdk7 0xA000 d k)
  | .ldX d => oneWord (encRd 0x900C d)
  | .ldXInc d => oneWord (encRd 0x900D d)
  | .ldXDec d => oneWord (encRd 0x900E d)
  | .ldY d => oneWord (encRd 0x8008 d)
  | .ldYInc d => oneWord (encRd 0x9009 d)
  | .ldYDec d => oneWord (encRd 0x900A d)
  | .lddY d q => oneWord (encRdq 0x8008 d q)
  | .ldZ d => oneWord (encRd 0x8000 d)
  | .ldZInc d => oneWord (encRd 0x9001 d)
  | .ldZDec d => oneWord (encRd 0x9002 d)
  | .lddZ d q => oneWord (encRdq 0x8000 d q)
  | .sts k r => twoWords (encRd 0x9200 r) k.toNat
  | .sts16 k r => oneWord (encRdk7 0xA800 r k)
  | .stX r => oneWord (encRd 0x920C r)
  | .stXInc r => oneWord (encRd 0x920D r)
  | .stXDec r => oneWord (encRd 0x920E r)
  | .stY r => oneWord (encRd 0x8208 r)
  | .stYInc r => oneWord (encRd 0x9209 r)
  | .stYDec r => oneWord (encRd 0x920A r)
  | .stdY q r => oneWord (encRdq 0x8208 r q)
  | .stZ r => oneWord (encRd 0x8200 r)
  | .stZInc r => oneWord (encRd 0x9201 r)
  | .stZDec r => oneWord (encRd 0x9202 r)
  | .stdZ q r => oneWord (encRdq 0x8200 r q)
  | .lpmR0 => oneWord 0x95C8
  | .lpm d => oneWord (encRd 0x9004 d)
  | .lpmZInc d => oneWord (encRd 0x9005 d)
  | .elpmR0 => oneWord 0x95D8
  | .elpm d => oneWord (encRd 0x9006 d)
  | .elpmZInc d => oneWord (encRd 0x9007 d)
  | .spm => oneWord 0x95E8
  | .spmZInc => oneWord 0x95F8
  | .inp d A => oneWord (encRdA6 0xB000 d A)
  | .out A r => oneWord (encRdA6 0xB800 r A)
  | .push r => oneWord (encRd 0x920F r)
  | .pop d => oneWord (encRd 0x900F d)
  | .xch d => oneWord (encRd 0x9204 d)
  | .las d => oneWord (encRd 0x9205 d)
  | .lac d => oneWord (encRd 0x9206 d)
  | .lat d => oneWord (encRd 0x9207 d)
  | .lsl d => oneWord (encRdRr 0x0C00 d d)
  | .lsr d => oneWord (encRd 0x9406 d)
  | .rol d => oneWord (encRdRr 0x1C00 d d)
  | .ror d => oneWord (encRd 0x9407 d)
  | .asr d => oneWord (encRd 0x9405 d)
  | .swap d => oneWord (encRd 0x9402 d)
  | .bset s => oneWord (encS 0x9408 s)
  | .bclr s => oneWord (encS 0x9488 s)
  | .sbi A b => oneWord (encA5b 0x9A00 A b)
  | .cbi A b => oneWord (encA5b 0x9800 A b)
  | .bst d b => oneWord (encRb 0xFA00 d b)
  | .bld d b => oneWord (encRb 0xF800 d b)
  | .sec => oneWord 0x9408
  | .clc => oneWord 0x9488
  | .sen => oneWord 0x9428
  | .cln => oneWord 0x94A8
  | .sez => oneWord 0x9418
  | .clz => oneWord 0x9498
  | .sei => oneWord 0x9478
  | .cli => oneWord 0x94F8
  | .ses => oneWord 0x9448
  | .cls => oneWord 0x94C8
  | .sev => oneWord 0x9438
  | .clv => oneWord 0x94B8
  | .set => oneWord 0x9468
  | .clt => oneWord 0x94E8
  | .seh => oneWord 0x9458
  | .clh => oneWord 0x94D8
  | .brk => oneWord 0x9598
  | .nop => oneWord 0x0000
  | .sleep => oneWord 0x9588
  | .wdr => oneWord 0x95A8

/-- The bytes of an instruction as program memory holds them (R62). -/
def encodeBytes (i : Instr) : List Byte :=
  (encode i).flatMap fun w => [w.extractLsb' 0 8, w.extractLsb' 8 8]

/-- The first word of an instruction. -/
def firstWord (i : Instr) : Word := (encode i).headD 0

/-- The canonical instruction an alias names (R117); every other instruction is its own. -/
def Instr.canonical : Instr → Instr
  | .add d r => .add d r
  | .adc d r => .adc d r
  | .adiw d K => .adiw d K
  | .sub d r => .sub d r
  | .subi d K => .subi d K
  | .sbc d r => .sbc d r
  | .sbci d K => .sbci d K
  | .sbiw d K => .sbiw d K
  | .and d r => .and d r
  | .andi d K => .andi d K
  | .or d r => .or d r
  | .ori d K => .ori d K
  | .eor d r => .eor d r
  | .com d => .com d
  | .neg d => .neg d
  | .sbr d K => .ori d K
  | .cbr d K => .andi d (0xFF - K)
  | .inc d => .inc d
  | .dec d => .dec d
  | .tst d => .and d d
  | .clr d => .eor d d
  | .ser d => .ldi d 0xFF
  | .mul d r => .mul d r
  | .muls d r => .muls d r
  | .mulsu d r => .mulsu d r
  | .fmul d r => .fmul d r
  | .fmuls d r => .fmuls d r
  | .fmulsu d r => .fmulsu d r
  | .des K => .des K
  | .rjmp k => .rjmp k
  | .ijmp => .ijmp
  | .eijmp => .eijmp
  | .jmp k => .jmp k
  | .rcall k => .rcall k
  | .icall => .icall
  | .eicall => .eicall
  | .call k => .call k
  | .ret => .ret
  | .reti => .reti
  | .cpse d r => .cpse d r
  | .cp d r => .cp d r
  | .cpc d r => .cpc d r
  | .cpi d K => .cpi d K
  | .sbrc r b => .sbrc r b
  | .sbrs r b => .sbrs r b
  | .sbic A b => .sbic A b
  | .sbis A b => .sbis A b
  | .brbs s k => .brbs s k
  | .brbc s k => .brbc s k
  | .breq k => .brbs 1 k
  | .brne k => .brbc 1 k
  | .brcs k => .brbs 0 k
  | .brcc k => .brbc 0 k
  | .brsh k => .brbc 0 k
  | .brlo k => .brbs 0 k
  | .brmi k => .brbs 2 k
  | .brpl k => .brbc 2 k
  | .brge k => .brbc 4 k
  | .brlt k => .brbs 4 k
  | .brhs k => .brbs 5 k
  | .brhc k => .brbc 5 k
  | .brts k => .brbs 6 k
  | .brtc k => .brbc 6 k
  | .brvs k => .brbs 3 k
  | .brvc k => .brbc 3 k
  | .brie k => .brbs 7 k
  | .brid k => .brbc 7 k
  | .mov d r => .mov d r
  | .movw d r => .movw d r
  | .ldi d K => .ldi d K
  | .lds d k => .lds d k
  | .lds16 d k => .lds16 d k
  | .ldX d => .ldX d
  | .ldXInc d => .ldXInc d
  | .ldXDec d => .ldXDec d
  | .ldY d => .lddY d 0
  | .ldYInc d => .ldYInc d
  | .ldYDec d => .ldYDec d
  | .lddY d q => .lddY d q
  | .ldZ d => .lddZ d 0
  | .ldZInc d => .ldZInc d
  | .ldZDec d => .ldZDec d
  | .lddZ d q => .lddZ d q
  | .sts k r => .sts k r
  | .sts16 k r => .sts16 k r
  | .stX r => .stX r
  | .stXInc r => .stXInc r
  | .stXDec r => .stXDec r
  | .stY r => .stdY 0 r
  | .stYInc r => .stYInc r
  | .stYDec r => .stYDec r
  | .stdY q r => .stdY q r
  | .stZ r => .stdZ 0 r
  | .stZInc r => .stZInc r
  | .stZDec r => .stZDec r
  | .stdZ q r => .stdZ q r
  | .lpmR0 => .lpmR0
  | .lpm d => .lpm d
  | .lpmZInc d => .lpmZInc d
  | .elpmR0 => .elpmR0
  | .elpm d => .elpm d
  | .elpmZInc d => .elpmZInc d
  | .spm => .spm
  | .spmZInc => .spmZInc
  | .inp d A => .inp d A
  | .out A r => .out A r
  | .push r => .push r
  | .pop d => .pop d
  | .xch d => .xch d
  | .las d => .las d
  | .lac d => .lac d
  | .lat d => .lat d
  | .lsl d => .add d d
  | .lsr d => .lsr d
  | .rol d => .adc d d
  | .ror d => .ror d
  | .asr d => .asr d
  | .swap d => .swap d
  | .bset s => .bset s
  | .bclr s => .bclr s
  | .sbi A b => .sbi A b
  | .cbi A b => .cbi A b
  | .bst d b => .bst d b
  | .bld d b => .bld d b
  | .sec => .bset 0
  | .clc => .bclr 0
  | .sen => .bset 2
  | .cln => .bclr 2
  | .sez => .bset 1
  | .clz => .bclr 1
  | .sei => .bset 7
  | .cli => .bclr 7
  | .ses => .bset 4
  | .cls => .bclr 4
  | .sev => .bset 3
  | .clv => .bclr 3
  | .set => .bset 6
  | .clt => .bclr 6
  | .seh => .bset 5
  | .clh => .bclr 5
  | .brk => .brk
  | .nop => .nop
  | .sleep => .sleep
  | .wdr => .wdr

end Sys2Proof
end

