-- ==== Sys2Proof/Machine/Device.lean ====
section
/-! DEFINITION. The state of the device behind the I/O space (20_memory.md R70, 10_state.md R34), and `Cfg.SpmOp`
(43_data_transfer_progmem_io_stack.md R326) as a function of it. -/

namespace Sys2Proof.Machine

open Sys2Proof

/-- What the outside world does at one tick of the reference device (log 6). -/
inductive DeviceEvent where
  /-- A request becomes pending and enabled. -/
  | request (r : Request)
  /-- A device location takes a value of its own. -/
  | setByte (loc : IoLoc) (v : Byte)
  /-- The condition under which SLEEP sleeps. -/
  | setSleepEnabled (b : Bool)
  /-- The device asks for a reset. -/
  | requestReset
  deriving DecidableEq, Repr

/-- The device's state (R20, 20_memory.md R70). `bytes` holds the locations written so far, by `IoLoc.key`; `pageBuffer`
the temporary page buffer by byte offset in a page; `inputs` and `hidden` are the model's own (logs 6, 9). -/
structure Device where
  bytes : Memory
  requests : List Request
  inputs : List (List DeviceEvent)
  resetRequested : Bool
  sleepEnabled : Bool
  pageBuffer : Memory
  lockBits : Word
  hidden : Nat
  deriving DecidableEq, Repr, Inhabited

/-- What `Cfg.SpmOp` answers (R326; log 11): which of the page's operations it does, the program words it changes before
that, and the device it leaves. -/
structure SpmResult where
  action : SpmAction
  words : List (Nat × Word)
  dev : Device
  deriving DecidableEq, Repr, Inhabited

end Sys2Proof.Machine

namespace Sys2Proof

/-- `Cfg.SpmOp` of a device with an arbitrary controller (R326; log 11): the form, the 24-bit byte address, R1:R0, program
memory, the device, and the number of resets, on which unwritten bytes depend. -/
opaque Config.spmFunction : SpmForm → BitVec 24 → Word → Memory → Machine.Device → Nat → Machine.SpmResult

end Sys2Proof
end

