-- ==== Sys2Proof/Machine/Reference.lean ====
section
/-! DEFINITION. The reference configuration `REF` of 00_scope.md R4 and 92_eei_decisions.md D2 (log 2). -/

namespace Sys2Proof

/-- The data map of `REF` (20_memory.md R66): registers from 0x0000, I/O from 0x0020, SRAM from 0x0060 to RAMEND. -/
def Config.referenceMap : List Region :=
  [⟨0x0000, 0x20, .reg, 0⟩, ⟨0x0020, 0x40, .io, 0⟩, ⟨0x0060, 0x400, .sram, 0x0060⟩]

/-- The instructions not in `Avail` of `REF` (R4, 90_conflicts.md C18). -/
def Config.referenceAbsent : List OptionalRow :=
  [.lds16, .sts16, .eijmp, .eicall, .elpmR0, .elpm, .elpmZInc, .xch, .las, .lac, .lat, .spmZInc]

/-- `REF`: the default column of the table of R4. -/
def Config.reference : Config where
  core := .avr
  pcWidth := .upTo16 15
  flashEnd := 0x1FFF
  ramEnd := 0x045F
  dataWidth := .bits16
  progGt64k := false
  absent := Config.referenceAbsent
  numRegs := .regs32
  dataMap := Config.referenceMap
  ioSreg := 0x3F
  ioSpl := 0x3D
  ioSph := 0x3E
  ioRampD := 0x38
  ioRampX := 0x39
  ioRampY := 0x3A
  ioRampZ := 0x3B
  ioEind := 0x3C
  spWidth := .bits16
  spReset := 0x045F
  resetPc := 0
  ocdEnabled := false
  device := .reference
  desRound := false
  spmOp := none

/-- A device with every optional instruction of the XMEGA core, on the layout of the configuration it is made from:
22-bit PC, more than 64K bytes of program memory, DesRound and SpmOp present (log 19). -/
def Config.extended (c : Config) : Config :=
  { c with core := .xmega, pcWidth := .bits22, progGt64k := true, absent := [], numRegs := .regs32,
           desRound := true, spmOp := some (c.spmOp.getD (.listed 64)) }

end Sys2Proof
end

