-- ==== Sys2Proof/Machine/State.lean ====
section
/-! DEFINITION. The machine's state (10_state.md R20), the reasons a step can stop, and the state after reset (R36,
70_reset_and_hazards.md R470). -/

namespace Sys2Proof.Machine

open Sys2Proof

/-- The four model faults with the information each records (60_exceptions.md R431). -/
inductive FaultInfo where
  /-- A program-memory word address above FLASHEND was read. -/
  | fetchOutOfRange (w : Nat)
  /-- The word at this PC is no instruction of this device. -/
  | reservedOpcode (pc : ProgAddr) (w : Word)
  /-- The instruction is an operand combination whose result the manual calls undefined. -/
  | undefinedOperand (pc : ProgAddr) (w : Word)
  /-- A data address is unmapped, or a store hit mapped flash. -/
  | dataAccess (a : Nat)
  deriving DecidableEq, Repr

/-- The run state (R34, R431). -/
inductive RunState where
  | running | sleeping | stopped
  | faulted (f : FaultInfo)
  deriving DecidableEq, Repr

/-- The complete state of the machine (R20). `prog` is program memory by byte address (R62), `sram` the SRAM bytes of
the data space (R66); what a byte that is not listed reads as is said by `State.progByte` and `State.sramByte`. `cfg` is
the device configuration, the same in every state of a run (log 1); `resets` counts the resets of the run (log 7). -/
structure State where
  cfg : Config
  regs : Vector Byte 32
  pc : ProgAddr
  sreg : Byte
  sp : Word
  rampX : Byte
  rampY : Byte
  rampZ : Byte
  rampD : Byte
  eind : Byte
  prog : Memory
  sram : Memory
  dev : Device
  run : RunState
  irqInhibit : Bool
  resets : Nat
  deriving DecidableEq, Repr

/-- The model faults of R431, each with the state it leaves: `left` is the state before the instruction with the partial
effects the rules name, and its run state is `faulted` (log 14). Every one is safe: the machine stops where the manual
defines nothing. -/
inductive Fault where
  /-- Instruction fetch (first or second word), the look-ahead of a skip, LPM, ELPM, or a data read of mapped flash
  above FLASHEND (R61, R201, R320). Safe. -/
  | fetchOutOfRange (w : Nat) (left : State)
  /-- Decode: an unallocated word, or an instruction this device does not have (R115). Safe. -/
  | reservedOpcode (pc : ProgAddr) (w : Word) (left : State)
  /-- The operand combinations of R290 and R336, raised by their meanings before any effect. Safe. -/
  | undefinedOperand (pc : ProgAddr) (w : Word) (left : State)
  /-- Every data-space access, stack accesses and interrupt entry among them (R66). Safe. -/
  | dataAccess (a : Nat) (left : State)
  deriving DecidableEq, Repr

/-- Why there is no next state without a fault. -/
inductive Refusal where
  /-- Raised by an arm of `exec` that has no meaning yet; no arm of this model does. Safe. -/
  | notModelled (mnemonic : String)
  /-- Raised by `step` in Stopped Mode, which only a debugger outside the model ends (R420, R445, R447; log 15). Safe. -/
  | stoppedMode
  deriving DecidableEq, Repr

/-- The device after reset on the reference configuration: nothing written, nothing pending, sleep enabled (R422, R434).
MODEL'S CHOICE, of values the spec does not give (R36): the Boot Loader Lock bits are 0x0000 and nothing of the page buffer
is filled (log 11); no input is to come (log 6); the private state is 0 (log 9). -/
def Device.reset : Device where
  bytes := []
  requests := []
  inputs := []
  resetRequested := false
  sleepEnabled := true
  pageBuffer := []
  lockBits := 0
  hidden := 0

/-- The machine right after reset (R36, R470), on the reference configuration (log 2), no program loaded (log 19). R0 to
R31 are unspecified by the spec and zero here (log 3). -/
def State.reset : State where
  cfg := Config.reference
  regs := Vector.replicate 32 0
  pc := Config.reference.resetPc
  sreg := 0x00
  sp := Config.reference.spReset
  rampX := 0x00
  rampY := 0x00
  rampZ := 0x00
  rampD := 0x00
  eind := 0x00
  prog := []
  sram := []
  dev := Device.reset
  run := .running
  irqInhibit := false
  resets := 0

end Sys2Proof.Machine
end

