-- ==== Sys2Proof/Machine/Flags.lean ====
section
/-! DEFINITION. SREG and the flag computations (10_state.md R26, 40_arithmetic_logic.md R140 to R142 and the flag lines of the
instruction rules). A computation takes SREG and answers the new SREG; flags it does not name stay. -/

namespace Sys2Proof.Machine

open Sys2Proof

/-- The bit numbers of R26. -/
@[simp] abbrev flagC : BitIx := 0
@[simp] abbrev flagZ : BitIx := 1
@[simp] abbrev flagN : BitIx := 2
@[simp] abbrev flagV : BitIx := 3
@[simp] abbrev flagS : BitIx := 4
@[simp] abbrev flagH : BitIx := 5
@[simp] abbrev flagT : BitIx := 6
@[simp] abbrev flagI : BitIx := 7

/-- Bit `i` of a byte. -/
def getBit (v : Byte) (i : BitIx) : Bool := v.getLsbD i.val

/-- A byte with bit `i` set or cleared. -/
def putBit (v : Byte) (i : BitIx) (b : Bool) : Byte :=
  if b then v ||| 1#8 <<< i.val else v &&& ~~~(1#8 <<< i.val)

/-- Whether an exact result lies outside the 8-bit two's complement range (R140: two's complement overflow). -/
def overflows8 (x : Int) : Bool := decide (x < -128 ∨ 127 < x)

/-- V, N and Z written, and S = N ⊕ V from the new ones (R140). -/
def putSVNZ (sreg : Byte) (v n z : Bool) : Byte :=
  putBit (putBit (putBit (putBit sreg flagV v) flagN n) flagZ z) flagS (n ^^ v)

/-- H and C written. -/
def putHC (sreg : Byte) (h c : Bool) : Byte := putBit (putBit sreg flagH h) flagC c

/-- The 8-bit sum with carry in (R140). -/
def addBytes (a b : Byte) (cin : Bool) : Byte := BitVec.ofNat 8 (a.toNat + b.toNat + cin.toNat)

/-- The 8-bit difference with borrow in (R141). -/
def subBytes (a b : Byte) (cin : Bool) : Byte := BitVec.ofInt 8 ((a.toNat : Int) - b.toNat - cin.toNat)

/-- `AddFlags` (R140): H, S, V, N, Z, C. -/
def addFlags (sreg a b : Byte) (cin : Bool) : Byte :=
  let res := addBytes a b cin
  putHC (putSVNZ sreg (overflows8 (a.toInt + b.toInt + cin.toNat)) res.msb (decide (res = 0)))
    (decide (16 ≤ a.toNat % 16 + b.toNat % 16 + cin.toNat))
    (decide (256 ≤ a.toNat + b.toNat + cin.toNat))

/-- `SubFlags` (R141): H, S, V, N, Z, C; with `keepZ`, Z keeps its value on a zero result and is cleared on another. -/
def subFlags (sreg a b : Byte) (cin keepZ : Bool) : Byte :=
  let res := subBytes a b cin
  putHC (putSVNZ sreg (overflows8 (a.toInt - b.toInt - cin.toNat)) res.msb
      (decide (res = 0) && (!keepZ || getBit sreg flagZ)))
    (decide (a.toNat % 16 < b.toNat % 16 + cin.toNat))
    (decide (a.toNat < b.toNat + cin.toNat))

/-- `LogicFlags` (R142): V cleared, N, Z, S. -/
def logicFlags (sreg res : Byte) : Byte := putSVNZ sreg false res.msb (decide (res = 0))

/-- The flags of COM (R156): `LogicFlags`, and C set. -/
def comFlags (sreg res : Byte) : Byte := putBit (logicFlags sreg res) flagC true

/-- The flags of INC (R160): V exactly when the result is 0x80; C and H stay. -/
def incFlags (sreg res : Byte) : Byte := putSVNZ sreg (decide (res = 0x80)) res.msb (decide (res = 0))

/-- The flags of DEC (R161): V exactly when the result is 0x7F; C and H stay. -/
def decFlags (sreg res : Byte) : Byte := putSVNZ sreg (decide (res = 0x7F)) res.msb (decide (res = 0))

/-- The flags of ADIW (R145) from the pair before and after. -/
def adiwFlags (sreg : Byte) (old res : Word) : Byte :=
  putBit (putSVNZ sreg (!old.msb && res.msb) res.msb (decide (res = 0))) flagC (!res.msb && old.msb)

/-- The flags of SBIW (R150) from the pair before and after. -/
def sbiwFlags (sreg : Byte) (old res : Word) : Byte :=
  putBit (putSVNZ sreg (old.msb && !res.msb) res.msb (decide (res = 0))) flagC (res.msb && !old.msb)

/-- The flags of the multiplies (R165 to R170): C and Z only. -/
def mulFlags (sreg : Byte) (c : Bool) (res : Word) : Byte :=
  putBit (putBit sreg flagC c) flagZ (decide (res = 0))

/-- The flags of the shifts and rotates (R360 to R364): C the bit shifted out, V = N ⊕ C, S = N ⊕ V; H stays. -/
def shiftFlags (sreg res : Byte) (c : Bool) : Byte :=
  putBit (putSVNZ sreg (res.msb ^^ c) res.msb (decide (res = 0))) flagC c

/-- The flags of LSL and ROL (R360, R362): those of the shifts, and H = bit 3 of the operand. -/
def shiftLeftFlags (sreg old res : Byte) : Byte := putBit (shiftFlags sreg res old.msb) flagH (getBit old 3)

end Sys2Proof.Machine
end

