-- ==== Sys2Proof/Machine/Memory.lean ====
section
/-! DEFINITION. Sparse byte memories (Host.Cell lists) in one canonical form: addresses strictly rising. A byte that is not
listed has no value of its own, so no entry can equal it (logs 4, 5, 6). -/

namespace Sys2Proof.Machine

open Sys2Proof

/-- The listed byte at an address. -/
def Memory.get : Memory → Nat → Option Byte
  | [], _ => none
  | c :: m, a => if c.1 = a then some c.2 else Memory.get m a

/-- The memory with one byte written, in canonical form. -/
def Memory.set : Memory → Nat → Byte → Memory
  | [], a, v => [(a, v)]
  | c :: m, a, v =>
    if a < c.1 then (a, v) :: c :: m else if c.1 = a then (a, v) :: m else c :: Memory.set m a v

/-- Every address of the memory is above `lo`, and they rise strictly. -/
def Memory.wfAbove : Memory → Nat → Bool
  | [], _ => true
  | c :: m, lo => decide (lo < c.1) && Memory.wfAbove m c.1

/-- The canonical form: strictly rising addresses. -/
def Memory.wf : Memory → Bool
  | [] => true
  | c :: m => Memory.wfAbove m c.1

/-- The canonical form of a list of bytes: where an address is listed twice the first entry counts, as in `Memory.get`. -/
def Memory.canonical : Memory → Memory
  | [] => []
  | c :: m => Memory.set (Memory.canonical m) c.1 c.2

/-- The memory with the word `v` written at word address `w`, the low byte at the even byte address (20_memory.md R62). -/
def Memory.setWord (m : Memory) (w : Nat) (v : Word) : Memory :=
  Memory.set (Memory.set m (2 * w) (v.extractLsb' 0 8)) (2 * w + 1) (v.extractLsb' 8 8)

end Sys2Proof.Machine
end

