-- ==== Sys2Proof/Machine/Ops.lean ====
section
/-! DEFINITION. The named operations over the state: registers, PC, SP, program memory, the device, I/O and data space,
stack, skips, interrupt entry and return, reset. -/

namespace Sys2Proof.Machine

open Sys2Proof

/-! ### Results -/

/-- What an operation that can fault answers: a value and a state, or a fault and the state it leaves (R431). -/
inductive Res (α : Type) where
  | ok (val : α) (s : State)
  | stop (f : FaultInfo) (s : State)

/-- Go on with the value and the state, or stop where the operation stopped. -/
def Res.bind {α β : Type} (r : Res α) (k : α → State → Res β) : Res β :=
  match r with
  | .ok v s => k v s
  | .stop f s => .stop f s

/-- `raise` (R431): the run state becomes Faulted. -/
def raise (f : FaultInfo) (s : State) : Fault :=
  let left := { s with run := .faulted f }
  match f with
  | .fetchOutOfRange w => .fetchOutOfRange w left
  | .reservedOpcode pc w => .reservedOpcode pc w left
  | .undefinedOperand pc w => .undefinedOperand pc w left
  | .dataAccess a => .dataAccess a left

/-- The outcome of a meaning. -/
def Res.outcome (r : Res Unit) : Host.Outcome State Fault Refusal :=
  match r with
  | .ok _ s => .next s
  | .stop f s => .fault (raise f s)

/-! ### Registers, PC and SP -/

/-- `R[i]` (R9). -/
def State.reg (s : State) (i : RegIx) : Byte := s.regs[i.val]

/-- `R[i] <- v` (R9). -/
def State.setReg (s : State) (i : RegIx) (v : Byte) : State := { s with regs := s.regs.set i.val v }

/-- The pair `R[i+1]:R[i]` (R22). -/
def State.pair (s : State) (i : RegIx) : Word := s.reg (i + 1) ++ s.reg i

/-- `R[i+1]:R[i] <- v` (R22). -/
def State.setPair (s : State) (i : RegIx) (v : Word) : State :=
  (s.setReg i (v.extractLsb' 0 8)).setReg (i + 1) (v.extractLsb' 8 8)

/-- A flag of SREG (R26). -/
def State.flag (s : State) (i : BitIx) : Bool := getBit s.sreg i

/-- `PC_BITS` (R4). -/
def pcBits : PcWidth → Nat
  | .upTo16 n => n.val + 1
  | .bits22 => 22

/-- The "22 bits PC" class (R4). -/
def longPc (c : Config) : Bool := decide (c.pcWidth = .bits22)

/-- A program address reduced modulo 2^PC_BITS (R25). -/
def wrapPc (c : Config) (v : ProgAddr) : ProgAddr := BitVec.ofNat 22 (v.toNat % 2 ^ pcBits c.pcWidth)

/-- `pc <- target` (R9). -/
def State.setPc (s : State) (v : ProgAddr) : State := { s with pc := wrapPc s.cfg v }

/-- The PC `n` words on. -/
def State.pcPlus (s : State) (n : ProgAddr) : ProgAddr := wrapPc s.cfg (s.pc + n)

/-- `pc <- PC + n`. -/
def State.advance (s : State) (n : ProgAddr) : State := s.setPc (s.pc + n)

/-- SREG written whole (R28). -/
def State.setSreg (s : State) (v : Byte) : State := { s with sreg := v }

/-- The result of a register instruction: the flags, the destination, `pc <- PC + 1`. -/
def State.writeResult (s : State) (d : RegIx) (res sreg : Byte) : State := ((s.setSreg sreg).setReg d res).advance 1

/-- The result of a multiply (R165 to R170): R1:R0, C and Z, `pc <- PC + 1`. -/
def State.writeProduct (s : State) (res : Word) (sreg : Byte) : State := ((s.setSreg sreg).setPair 0 res).advance 1

/-- A conditional branch (R220): `k` in two's complement, counted from the next instruction. -/
def State.branchIf (s : State) (cond : Bool) (k : BitVec 7) : State :=
  if cond then s.advance (k.signExtend 22 + 1) else s.advance 1

/-- `IrqInhibit <- 1`, the delay of SEI and of BSET 7 (44_bit_and_bit_test.md R366, R378). -/
def State.inhibitIf (s : State) (cond : Bool) : State := if cond then { s with irqInhibit := true } else s

/-- A stack pointer reduced modulo 2^SP_BITS (R29). -/
def wrapSp (c : Config) (v : Word) : Word :=
  match c.spWidth with
  | .bits8 => v &&& 0x00FF
  | .bits16 => v

/-- `SP <- v` (R29). -/
def State.setSp (s : State) (v : Word) : State := { s with sp := wrapSp s.cfg v }

/-! ### Program memory (20_memory.md R61, R62) -/

/-- The byte of program memory at a byte address; one the loaded image does not define is a free value (log 5). -/
def State.progByte (s : State) (a : Nat) : Byte := (Memory.get s.prog a).getD (Config.progByte a)

/-- The word of program memory at a word address. -/
def State.progWord (s : State) (w : Nat) : Word := wordOf (s.progByte (2 * w)) (s.progByte (2 * w + 1))

/-- `ProgRead` (R61): `none` above FLASHEND. -/
def progRead (s : State) (w : Nat) : Option Word := if w ≤ s.cfg.flashEnd then some (s.progWord w) else none

/-- `ProgByte`, and `ProgLoad` of R320: the byte, or FetchOutOfRange. -/
def progLoad (a : Nat) (s : State) : Res Byte :=
  if a / 2 ≤ s.cfg.flashEnd then .ok (s.progByte a) s else .stop (.fetchOutOfRange (a / 2)) s

/-! ### SRAM (R66) -/

/-- The SRAM byte of a number; one nothing has written since the last reset is a free value (log 4). -/
def State.sramByte (s : State) (a : Nat) : Byte := (Memory.get s.sram a).getD (Config.sramByte s.resets a)

/-! ### The device (R70; logs 6, 9) -/

/-- The number of a device location in the reference device's byte store (log 24). -/
def IoLoc.key : IoLoc → Nat
  | .io A => A.toNat
  | .ext e => 64 + e

/-- The byte the reference device holds at a location; one never written is a free value (log 6). -/
def State.deviceByte (s : State) (loc : IoLoc) : Byte :=
  (Memory.get s.dev.bytes (IoLoc.key loc)).getD (Config.deviceByte s.resets loc)

/-- The state with another private state of the device. -/
def State.setHidden (s : State) (h : Nat) : State := { s with dev := { s.dev with hidden := h } }

/-- The state with a byte stored in the reference device. -/
def State.setDeviceByte (s : State) (loc : IoLoc) (v : Byte) : State :=
  { s with dev := { s.dev with bytes := Memory.set s.dev.bytes (IoLoc.key loc) v } }

/-- `Device.read`. -/
def devRead (loc : IoLoc) (s : State) : Byte × State :=
  match s.cfg.device with
  | .reference => (s.deviceByte loc, s)
  | .external => ((Config.deviceRead loc s.dev.hidden).1, s.setHidden (Config.deviceRead loc s.dev.hidden).2)

/-- `Device.write`. -/
def devWrite (loc : IoLoc) (v : Byte) (s : State) : State :=
  match s.cfg.device with
  | .reference => s.setDeviceByte loc v
  | .external => s.setHidden (Config.deviceWrite loc v s.dev.hidden)

/-- The I/O location of SBI, CBI, SBIC and SBIS among the 64 (R108). -/
def lowIo (A : BitVec 5) : BitVec 6 := A.setWidth 6

/-- `Device.setbit`; on the reference device a read, then a write of the whole byte (R368; log 28). -/
def devSetBit (A : BitVec 5) (b : BitIx) (s : State) : State :=
  match s.cfg.device with
  | .reference => s.setDeviceByte (.io (lowIo A)) (putBit (s.deviceByte (.io (lowIo A))) b true)
  | .external => s.setHidden (Config.deviceSetBit A b s.dev.hidden)

/-- `Device.clrbit` (R369). -/
def devClrBit (A : BitVec 5) (b : BitIx) (s : State) : State :=
  match s.cfg.device with
  | .reference => s.setDeviceByte (.io (lowIo A)) (putBit (s.deviceByte (.io (lowIo A))) b false)
  | .external => s.setHidden (Config.deviceClrBit A b s.dev.hidden)

/-- `Device.wdr` (R423): the reference device has no watchdog. -/
def devWdr (s : State) : State :=
  match s.cfg.device with
  | .reference => s
  | .external => s.setHidden (Config.deviceWdr s.dev.hidden)

/-- `Device.sleep_enabled` (R422). -/
def devSleepEnabled (s : State) : Bool :=
  match s.cfg.device with
  | .reference => s.dev.sleepEnabled
  | .external => Config.deviceSleepEnabled s.dev.hidden

/-- `Device.irq` (R434). -/
def devIrq (s : State) : Option Request :=
  match s.cfg.device with
  | .reference => s.dev.requests.head?
  | .external => Config.deviceIrq s.dev.hidden

/-- `Device.ack` (R434): the reference device drops the first request of that source (log 6). -/
def devAck (source : Nat) (s : State) : State :=
  match s.cfg.device with
  | .reference => { s with dev := { s.dev with requests := s.dev.requests.eraseP fun r => r.source == source } }
  | .external => s.setHidden (Config.deviceAck source s.dev.hidden)

/-- One event of the outside world on the reference device (log 6). -/
def Device.apply (d : Device) : DeviceEvent → Device
  | .request r => { d with requests := d.requests ++ [r] }
  | .setByte loc v => { d with bytes := Memory.set d.bytes (IoLoc.key loc) v }
  | .setSleepEnabled b => { d with sleepEnabled := b }
  | .requestReset => { d with resetRequested := true }

/-- A tick of the reference device: the next list of inputs happens (log 6). -/
def Device.tick (d : Device) : Device :=
  match d.inputs with
  | [] => d
  | events :: rest => events.foldl Device.apply { d with inputs := rest }

/-- `Device.tick` (R70, R435). -/
def devTick (s : State) : State :=
  match s.cfg.device with
  | .reference => { s with dev := Device.tick s.dev }
  | .external => s.setHidden (Config.deviceTick s.dev.hidden)

/-- `Device.reset_requested` (R470). -/
def devResetRequested (s : State) : Bool :=
  match s.cfg.device with
  | .reference => s.dev.resetRequested
  | .external => Config.deviceResetRequested s.dev.hidden

/-! ### I/O space (R69) -/

/-- The CPU's own registers among the I/O locations. -/
inductive CpuReg where
  | sreg | spl | sph | rampD | rampX | rampY | rampZ | eind
  deriving DecidableEq, Repr

/-- Whether a CPU register exists on this device (R29 to R32, R69, R323; log 12). -/
def cpuRegExists (c : Config) : CpuReg → Bool
  | .sreg => true
  | .spl => true
  | .sph => decide (c.spWidth = .bits16)
  | .rampD => decide (c.dataWidth = .bits24)
  | .rampX => decide (c.dataWidth = .bits24)
  | .rampY => decide (c.dataWidth = .bits24)
  | .rampZ => decide (c.dataWidth = .bits24) || c.progGt64k
  | .eind => longPc c

/-- The I/O address of a CPU register (R4). -/
def cpuRegAddr (c : Config) : CpuReg → BitVec 6
  | .sreg => c.ioSreg
  | .spl => c.ioSpl
  | .sph => c.ioSph
  | .rampD => c.ioRampD
  | .rampX => c.ioRampX
  | .rampY => c.ioRampY
  | .rampZ => c.ioRampZ
  | .eind => c.ioEind

/-- The CPU register at an I/O location, tried in the order of R69. -/
def cpuRegAt (c : Config) (A : BitVec 6) : Option CpuReg :=
  [CpuReg.sreg, .spl, .sph, .rampD, .rampX, .rampY, .rampZ, .eind].find?
    fun r => decide (A = cpuRegAddr c r) && cpuRegExists c r

/-- The byte of a CPU register (R28, R69). -/
def State.cpuReg (s : State) : CpuReg → Byte
  | .sreg => s.sreg
  | .spl => s.sp.extractLsb' 0 8
  | .sph => s.sp.extractLsb' 8 8
  | .rampD => s.rampD
  | .rampX => s.rampX
  | .rampY => s.rampY
  | .rampZ => s.rampZ
  | .eind => s.eind

/-- A write of a CPU register: plain storage (R69, R441). -/
def State.setCpuReg (s : State) (r : CpuReg) (v : Byte) : State :=
  match r with
  | .sreg => { s with sreg := v }
  | .spl => s.setSp (s.sp.extractLsb' 8 8 ++ v)
  | .sph => s.setSp (v ++ s.sp.extractLsb' 0 8)
  | .rampD => { s with rampD := v }
  | .rampX => { s with rampX := v }
  | .rampY => { s with rampY := v }
  | .rampZ => { s with rampZ := v }
  | .eind => { s with eind := v }

/-- `IoRead` (R69): the byte, and the state a device read leaves. -/
def ioRead (A : BitVec 6) (s : State) : Byte × State :=
  match cpuRegAt s.cfg A with
  | some r => (s.cpuReg r, s)
  | none => devRead (.io A) s

/-- `IoWrite` (R69). -/
def ioWrite (A : BitVec 6) (v : Byte) (s : State) : State :=
  match cpuRegAt s.cfg A with
  | some r => s.setCpuReg r v
  | none => devWrite (.io A) v s

/-- SBI's effect (44_bit_and_bit_test.md R368): a CPU register at that address is read and written back with the bit set,
any other location is the device's. -/
def setIoBit (A : BitVec 5) (b : BitIx) (s : State) : State :=
  match cpuRegAt s.cfg (lowIo A) with
  | some r => s.setCpuReg r (putBit (s.cpuReg r) b true)
  | none => devSetBit A b s

/-- CBI's effect (R369). -/
def clearIoBit (A : BitVec 5) (b : BitIx) (s : State) : State :=
  match cpuRegAt s.cfg (lowIo A) with
  | some r => s.setCpuReg r (putBit (s.cpuReg r) b false)
  | none => devClrBit A b s

/-! ### Data space (R66) -/

/-- What a data address names (R66). -/
inductive Place where
  | reg (n : RegIx)
  | io (A : BitVec 6)
  | extIo (e : Nat)
  | sram (a : Nat)
  | flash (b : Nat)
  | unmapped
  deriving DecidableEq, Repr

/-- The place number `n` of a region's kind; a register above R31 or an I/O location above 63 does not exist. -/
def placeOf (kind : RegionKind) (n : Nat) : Place :=
  match kind with
  | .reg => if h : n < 32 then .reg ⟨n, h⟩ else .unmapped
  | .io => if n < 64 then .io (BitVec.ofNat 6 n) else .unmapped
  | .extIo => .extIo n
  | .sram => .sram n
  | .flash => .flash n

/-- `Cfg.DataMap` (R66): the first region that holds the address; none is unmapped. -/
def place (c : Config) (a : Nat) : Place :=
  match c.dataMap.find? fun r => decide (r.base ≤ a ∧ a < r.base + r.size) with
  | some r => placeOf r.kind (r.start + (a - r.base))
  | none => .unmapped

/-- `MemRead(a, 1)` (R66). -/
def memRead (a : Nat) (s : State) : Res Byte :=
  match place s.cfg a with
  | .reg n => .ok (s.reg n) s
  | .io A => .ok (ioRead A s).1 (ioRead A s).2
  | .extIo e => .ok (devRead (.ext e) s).1 (devRead (.ext e) s).2
  | .sram b => .ok (s.sramByte b) s
  | .flash b => progLoad b s
  | .unmapped => .stop (.dataAccess a) s

/-- `MemWrite(a, 1, v)` (R66): a write of mapped flash faults. -/
def memWrite (a : Nat) (v : Byte) (s : State) : Res Unit :=
  match place s.cfg a with
  | .reg n => .ok () (s.setReg n v)
  | .io A => .ok () (ioWrite A v s)
  | .extIo e => .ok () (devWrite (.ext e) v s)
  | .sram b => .ok () { s with sram := Memory.set s.sram b v }
  | .flash _ => .stop (.dataAccess a) s
  | .unmapped => .stop (.dataAccess a) s

/-! ### Stack (R74, R75) -/

/-- `Push(v)`: the write, then the decrement of the stack pointer as the write left it. -/
def push (v : Byte) (s : State) : Res Unit :=
  (memWrite s.sp.toNat v s).bind fun _ t => .ok () (t.setSp (t.sp - 1))

/-- `Pop()`: the increment, then the read. -/
def pop (s : State) : Res Byte :=
  let t := s.setSp (s.sp + 1)
  memRead t.sp.toNat t

/-- `PushPC(ra)` (R74): low byte first, 2 or 3 bytes (log 20). -/
def pushPc (ra : ProgAddr) (s : State) : Res Unit :=
  (push (ra.extractLsb' 0 8) s).bind fun _ s1 =>
    (push (ra.extractLsb' 8 8) s1).bind fun _ s2 =>
      if longPc s.cfg then push ((ra.extractLsb' 16 6).setWidth 8) s2 else .ok () s2

/-- `PopPC()` (R75): the inverse; bits of the popped value above the widest PC are dropped. -/
def popPc (s : State) : Res ProgAddr :=
  if longPc s.cfg then
    (pop s).bind fun top s1 =>
      (pop s1).bind fun hi s2 =>
        (pop s2).bind fun lo s3 => .ok (top.extractLsb' 0 6 ++ hi ++ lo) s3
  else
    (pop s).bind fun hi s1 =>
      (pop s1).bind fun lo s2 => .ok ((hi ++ lo).setWidth 22) s2

/-! ### Skips (41_branch.md R201) -/

/-- `Skip(cond)`: the word at PC + 1 is read, and its length tested, only where the condition holds. -/
def skipIf (cond : Bool) (s : State) : Res Unit :=
  if cond then
    match progRead s (s.pcPlus 1).toNat with
    | some w => .ok () (s.advance (if isTwoWord w then 3 else 2))
    | none => .stop (.fetchOutOfRange (s.pcPlus 1).toNat) s
  else .ok () (s.advance 1)

/-- A call (R200 (b), (c)): the return address pushed, then the PC loaded with a target computed before the push. -/
def callTo (ra target : ProgAddr) (s : State) : Res Unit :=
  (pushPc (wrapPc s.cfg ra) s).bind fun _ t => .ok () (t.setPc target)

/-! ### Interrupts (60_exceptions.md R435 to R437) and reset (70_reset_and_hazards.md R470) -/

/-- `InterruptEntry` (R436): the return address pushed as a call pushes it, I cleared, the request acknowledged, the core
running at the handler. -/
def interruptEntry (r : Request) (s : State) : Res Unit :=
  (pushPc s.pc s).bind fun _ t =>
    .ok () ({ devAck r.source { t with sreg := putBit t.sreg flagI false } with run := .running }.setPc r.vector)

/-- The return from interrupt (R211, R437): the return address popped, I set, nothing else restored. -/
def interruptReturn (s : State) : Res Unit :=
  (popPc s).bind fun ra t => .ok () ({ t with sreg := putBit t.sreg flagI true }.setPc ra)

/-- The device after a reset during the run (R36): its own reset state, the Boot Loader Lock bits 0x0000 among it (logs 6, 9,
11). The outside world's coming inputs are not part of it. -/
def Device.afterReset (kind : DeviceKind) (d : Device) : Device :=
  { Device.reset with
    inputs := d.inputs
    hidden := match kind with
      | .reference => d.hidden
      | .external => Config.deviceReset d.hidden }

/-- R0 to R31 after the reset of this number: free values (R36; log 7). -/
@[irreducible] def resetRegisters (n : Nat) : Vector Byte 32 := Vector.ofFn fun i => Config.resetRegister n i

/-- Reset during the run (R36, R470): the specified values; registers, SRAM and device bytes are free values from then on
(log 7); program memory stays. -/
def applyReset (s : State) : State :=
  { s with
    regs := resetRegisters (s.resets + 1)
    pc := wrapPc s.cfg s.cfg.resetPc
    sreg := 0x00
    sp := wrapSp s.cfg s.cfg.spReset
    rampX := 0x00
    rampY := 0x00
    rampZ := 0x00
    rampD := 0x00
    eind := 0x00
    sram := []
    dev := Device.afterReset s.cfg.device s.dev
    run := .running
    irqInhibit := false
    resets := s.resets + 1 }

/-- Whether the core accepts a request now (R435): running or sleeping, I set, no one-instruction inhibit. -/
def acceptsInterrupt (s : State) : Bool :=
  (decide (s.run = .running) || decide (s.run = .sleeping)) && s.flag flagI && !s.irqInhibit

/-- The interrupt inhibit of SEI ends with the instruction after it (R435). -/
def endInhibit (wasSei : Bool) (s : State) : State := if wasSei then s else { s with irqInhibit := false }

/-- The check at every instruction boundary, and at every step while sleeping (R435): the device's tick, a reset it
requests, the end of the inhibit, an accepted interrupt. -/
def boundary (wasSei : Bool) (s : State) : Res Unit :=
  let t := devTick s
  if devResetRequested t then .ok () (applyReset t)
  else
    let u := endInhibit wasSei t
    match devIrq u with
    | none => .ok () u
    | some r => if acceptsInterrupt u then interruptEntry r u else .ok () u

end Sys2Proof.Machine
end

