-- ==== Sys2Proof/Machine/Operands.lean ====
section
/-! DEFINITION. Operand forms: pointers and data addresses (20_memory.md R65, 42_data_transfer_load_store.md R260, R264,
R265), loads, stores and exchanges through them, program-memory pointers (43_data_transfer_progmem_io_stack.md R320 to
R327), the 64-bit blocks of DES. -/

namespace Sys2Proof.Machine

open Sys2Proof

/-! ### Pointers (R260) -/

/-- The pointer registers X, Y and Z (R22). -/
inductive Pointer where
  | x | y | z
  deriving DecidableEq, Repr

/-- `lo(P)`: the number of the pointer's low register. -/
def Pointer.lo : Pointer → RegIx
  | .x => 26
  | .y => 28
  | .z => 30

/-- `RAMP(P)`. -/
def State.ramp (s : State) : Pointer → Byte
  | .x => s.rampX
  | .y => s.rampY
  | .z => s.rampZ

/-- `RAMP(P) <- v`. -/
def State.setRamp (s : State) (p : Pointer) (v : Byte) : State :=
  match p with
  | .x => { s with rampX := v }
  | .y => { s with rampY := v }
  | .z => { s with rampZ := v }

/-- `DATA_BITS` (R4). -/
def dataBits : DataWidth → Nat
  | .bits8 => 8
  | .bits16 => 16
  | .bits24 => 24

/-- A data address reduced modulo 2^DATA_BITS (R65). -/
def wrapData (c : Config) (a : DataAddr) : DataAddr := BitVec.ofNat 24 (a.toNat % 2 ^ dataBits c.dataWidth)

/-- `PtrGet(P)`. -/
def ptrGet (p : Pointer) (s : State) : DataAddr :=
  match s.cfg.dataWidth with
  | .bits8 => (s.reg p.lo).setWidth 24
  | .bits16 => (s.pair p.lo).setWidth 24
  | .bits24 => s.ramp p ++ s.pair p.lo

/-- `PtrSet(P, v)`: exactly the bytes `ptrGet` reads are written back. -/
def ptrSet (p : Pointer) (v : DataAddr) (s : State) : State :=
  match s.cfg.dataWidth with
  | .bits8 => s.setReg p.lo (v.extractLsb' 0 8)
  | .bits16 => s.setPair p.lo (v.extractLsb' 0 16)
  | .bits24 => (s.setPair p.lo (v.extractLsb' 0 16)).setRamp p (v.extractLsb' 16 8)

/-- The address after a post-increment. -/
def ptrNext (p : Pointer) (s : State) : DataAddr := wrapData s.cfg (ptrGet p s + 1)

/-- The address of a pre-decrement. -/
def ptrPrev (p : Pointer) (s : State) : DataAddr := wrapData s.cfg (ptrGet p s - 1)

/-- The address of a displacement form. -/
def ptrDisp (p : Pointer) (q : BitVec 6) (s : State) : DataAddr := wrapData s.cfg (ptrGet p s + q.setWidth 24)

/-- Whether a register is one of the two of a pointer (R290). -/
def Pointer.owns (p : Pointer) (d : RegIx) : Bool := decide (d = p.lo) || decide (d = p.lo + 1)

/-- `raise UndefinedOperand` of an instruction (R290, R336): no effect before it (log 22). -/
def undefinedOperand (i : Instr) (s : State) : Res Unit := .stop (.undefinedOperand s.pc (firstWord i)) s

/-! ### Direct addresses -/

/-- The data address of the 32-bit LDS and STS (R264). -/
def directAddr (k : Word) (s : State) : DataAddr :=
  match s.cfg.dataWidth with
  | .bits8 => (k.extractLsb' 0 8).setWidth 24
  | .bits16 => k.setWidth 24
  | .bits24 => s.rampD ++ k

/-- The data address of the 16-bit LDS and STS (R265): `k` is w[10:8] : w[3:0], the address is
¬w[8], w[8], w[10], w[9], w[3:0]. -/
def shortAddr (k : BitVec 7) : DataAddr :=
  (BitVec.ofBool (!k.getLsbD 4) ++ BitVec.ofBool (k.getLsbD 4) ++ BitVec.ofBool (k.getLsbD 6) ++
    BitVec.ofBool (k.getLsbD 5) ++ k.extractLsb' 0 4).setWidth 24

/-! ### Loads and stores -/

/-- `Rd <- MemRead(a, 1)`, then `pc <- PC + n`. -/
def loadAt (d : RegIx) (a : DataAddr) (n : ProgAddr) (s : State) : Res Unit :=
  (memRead a.toNat s).bind fun v t => .ok () ((t.setReg d v).advance n)

/-- `MemWrite(a, 1, v)`, then `pc <- PC + n`. -/
def storeAt (a : DataAddr) (v : Byte) (n : ProgAddr) (s : State) : Res Unit :=
  (memWrite a.toNat v s).bind fun _ t => .ok () (t.advance n)

/-- The post-increment load of R260; `i` is the instruction. -/
def loadPostInc (i : Instr) (p : Pointer) (d : RegIx) (s : State) : Res Unit :=
  if p.owns d then undefinedOperand i s
  else (memRead (ptrGet p s).toNat s).bind fun v t => .ok () ((ptrSet p (ptrNext p s) (t.setReg d v)).advance 1)

/-- The pre-decrement load of R260: the pointer is written before the access. -/
def loadPreDec (i : Instr) (p : Pointer) (d : RegIx) (s : State) : Res Unit :=
  if p.owns d then undefinedOperand i s else loadAt d (ptrPrev p s) 1 (ptrSet p (ptrPrev p s) s)

/-- The post-increment store of R260: the pointer is written after the access, from its value before. -/
def storePostInc (i : Instr) (p : Pointer) (r : RegIx) (s : State) : Res Unit :=
  if p.owns r then undefinedOperand i s
  else (memWrite (ptrGet p s).toNat (s.reg r) s).bind fun _ t => .ok () ((ptrSet p (ptrNext p s) t).advance 1)

/-- The pre-decrement store of R260. -/
def storePreDec (i : Instr) (p : Pointer) (r : RegIx) (s : State) : Res Unit :=
  if p.owns r then undefinedOperand i s else storeAt (ptrPrev p s) (s.reg r) 1 (ptrSet p (ptrPrev p s) s)

/-- The read-modify-write of XCH, LAS, LAC and LAT (R332 to R335): `f Rd old` is the byte written. -/
def exchangeAt (f : Byte → Byte → Byte) (d : RegIx) (s : State) : Res Unit :=
  (memRead (ptrGet .z s).toNat s).bind fun old t =>
    (memWrite (ptrGet .z s).toNat (f (s.reg d) old) t).bind fun _ u => .ok () ((u.setReg d old).advance 1)

/-! ### Program-memory pointers -/

/-- Z as the byte address of LPM (R320): RAMPZ takes no part. -/
def lpmAddr (s : State) : BitVec 24 := (s.pair 30).setWidth 24

/-- RAMPZ:Z as the byte address of ELPM (R323). -/
def elpmAddr (s : State) : BitVec 24 := s.rampZ ++ s.pair 30

/-- RAMPZ:Z written back (R325). -/
def setElpmAddr (v : BitVec 24) (s : State) : State :=
  { s with rampZ := v.extractLsb' 16 8 }.setPair 30 (v.extractLsb' 0 16)

/-- `Rd <- ProgLoad(a)`, then `pc <- PC + 1`. -/
def progLoadAt (d : RegIx) (a : BitVec 24) (s : State) : Res Unit :=
  (progLoad a.toNat s).bind fun v t => .ok () ((t.setReg d v).advance 1)

/-! ### SPM (R326, R327; log 11) -/

/-- The byte address of SPM. -/
def spmAddr (s : State) : BitVec 24 := (if s.cfg.progGt64k then s.rampZ else 0x00) ++ s.pair 30

/-- A program word written; a word above FLASHEND does not exist and nothing is written there. -/
def progSetWord (flashEnd : Nat) (m : Memory) (w : Nat) (v : Word) : Memory :=
  if w ≤ flashEnd then Memory.setWord m w v else m

/-- The page size in words of the device's SPM controller. -/
def pageSize (c : Config) : Nat :=
  match c.spmOp with
  | some (.listed size) => size
  | some (.function size) => size
  | none => 0

/-- The word addresses of the page that holds a byte address. -/
def pageWords (size a : Nat) : List Nat := (List.range size).map fun k => a / 2 / size * size + k

/-- A byte of the temporary page buffer; one never filled is a free value (log 11). -/
def State.pageByte (s : State) (k : Nat) : Byte := (Memory.get s.dev.pageBuffer k).getD (Config.pageBufferByte s.resets k)

/-- The word of the temporary page buffer for a word address. -/
def State.pageWord (s : State) (w : Nat) : Word :=
  wordOf (s.pageByte (2 * (w % pageSize s.cfg))) (s.pageByte (2 * (w % pageSize s.cfg) + 1))

/-- What a listed controller answers: the operation the device selects, and nothing else changed but its private state.
MODEL'S CHOICE (log 11): such a controller leaves every I/O location (SPMCR keeps SPMEN), the pending requests, the sleep
condition and the reset request as they were. -/
def listedSpm (form : SpmForm) (s : State) : SpmResult where
  action := Config.spmAction form (spmAddr s) (s.pair 0) s.dev.bytes s.dev.hidden
  words := []
  dev := { s.dev with hidden := Config.spmHidden form (spmAddr s) (s.pair 0) s.dev.hidden }

/-- What the parameter function answers (R326), its memories in canonical form; the outside world's coming inputs are no part
of the device. -/
def functionSpm (form : SpmForm) (s : State) : SpmResult :=
  let r := Config.spmFunction form (spmAddr s) (s.pair 0) s.prog s.dev s.resets
  { r with dev := { r.dev with
      bytes := Memory.canonical r.dev.bytes
      pageBuffer := Memory.canonical r.dev.pageBuffer
      inputs := s.dev.inputs } }

/-- `Cfg.SpmOp` of this device (R326). -/
def spmResult (form : SpmForm) (s : State) : SpmResult :=
  match s.cfg.spmOp with
  | some (.listed _) => listedSpm form s
  | some (.function _) => functionSpm form s
  | none => listedSpm form s

/-- The operation an SPM performs, selected by the device (R326). -/
def spmAct (form : SpmForm) (s : State) : SpmAction := (spmResult form s).action

/-- Program words written one after the other. -/
def progSetWords (flashEnd : Nat) (m : Memory) (ws : List (Nat × Word)) : Memory :=
  ws.foldl (fun m p => progSetWord flashEnd m p.1 p.2) m

/-- Program memory `m` after an operation of R326 at byte address `a`. Bit 0 of the address takes no part (R326 for erase
and word write). -/
def spmProg (act : SpmAction) (a : Nat) (data : Word) (s : State) (m : Memory) : Memory :=
  match act with
  | .erasePage => progSetWords s.cfg.flashEnd m ((pageWords (pageSize s.cfg) a).map fun w => (w, 0xFFFF))
  | .writeWord => progSetWord s.cfg.flashEnd m (a / 2) data
  | .writePage => progSetWords s.cfg.flashEnd m ((pageWords (pageSize s.cfg) a).map fun w => (w, s.pageWord w))
  | .fillBuffer => m
  | .setLockBits => m
  | .nothing => m

/-- The device `d` after an operation of R326. MODEL'S CHOICE (log 11): operation (iii) fills the word (a >> 1) modulo the
page size of the temporary page buffer and bit 0 of the address takes no part there; no operation changes anything else of
the device; a page write keeps the buffer. -/
def spmDevice (act : SpmAction) (a : Nat) (data : Word) (c : Config) (d : Device) : Device :=
  { d with
    pageBuffer := match act with
      | .fillBuffer => Memory.setWord d.pageBuffer (a / 2 % pageSize c) data
      | _ => d.pageBuffer
    lockBits := match act with
      | .setLockBits => data
      | _ => d.lockBits }

/-- `Cfg.SpmOp`: program memory and the device change, nothing else. -/
def spmOp (form : SpmForm) (s : State) : State :=
  let r := spmResult form s
  { s with
    prog := spmProg r.action (spmAddr s).toNat (s.pair 0) s (progSetWords s.cfg.flashEnd s.prog r.words)
    dev := spmDevice r.action (spmAddr s).toNat (s.pair 0) s.cfg r.dev }

/-! ### DES (R171; log 10) -/

/-- The first `n` rounds with H constant, as one permutation of data and key. -/
def desRounds (H : Bool) : Nat → Equiv.Perm (BitVec 64 × BitVec 64)
  | 0 => Equiv.refl _
  | n + 1 => (desRounds H n).trans (Config.desStep H n)

/-- What sixteen rounds come to: the data block encrypted or decrypted under the key, the key as it was. -/
def desResult (H : Bool) (x : BitVec 64 × BitVec 64) : BitVec 64 × BitVec 64 :=
  (if H then (Config.desCipher x.2).symm x.1 else Config.desCipher x.2 x.1, x.2)

/-- `Cfg.DesRound` (R171): fifteen rounds are free permutations, and the last undoes them and gives the result, which is every
function that keeps the contract of D21. -/
def desRound (data key : BitVec 64) (K : BitVec 4) (H : Bool) : BitVec 64 × BitVec 64 :=
  if K = 15 then desResult H ((desRounds H 15).symm (data, key)) else Config.desStep H K.toNat (data, key)

/-- The 64 bits of eight registers from `R[i]`, the least significant byte in `R[i]`. -/
def State.block (s : State) (i : RegIx) : BitVec 64 :=
  s.reg (i + 7) ++ s.reg (i + 6) ++ s.reg (i + 5) ++ s.reg (i + 4) ++ s.reg (i + 3) ++ s.reg (i + 2) ++ s.reg (i + 1) ++
    s.reg i

/-- Eight registers from `R[i]` written. -/
def State.setBlock (s : State) (i : RegIx) (v : BitVec 64) : State :=
  (((((((s.setReg i (v.extractLsb' 0 8)).setReg (i + 1) (v.extractLsb' 8 8)).setReg (i + 2) (v.extractLsb' 16 8)).setReg
    (i + 3) (v.extractLsb' 24 8)).setReg (i + 4) (v.extractLsb' 32 8)).setReg (i + 5) (v.extractLsb' 40 8)).setReg
    (i + 6) (v.extractLsb' 48 8)).setReg (i + 7) (v.extractLsb' 56 8)

end Sys2Proof.Machine
end

