-- ==== Sys2Proof/Machine/Arithmetic.lean ====
section
/-! DEFINITION. The arithmetic and logic instructions (40_arithmetic_logic.md R143 to R171). An alias has its own page and its own
meaning (log 17). -/

namespace Sys2Proof.Machine

open Sys2Proof

/-- ADD Rd,Rr (R143). -/
def execAdd (d : RegIx) (r : RegIx) (s : State) : Host.Outcome State Fault Refusal :=
  .next (s.writeResult d (addBytes (s.reg d) (s.reg r) false) (addFlags s.sreg (s.reg d) (s.reg r) false))

/-- ADC Rd,Rr (R144). -/
def execAdc (d : RegIx) (r : RegIx) (s : State) : Host.Outcome State Fault Refusal :=
  .next (s.writeResult d (addBytes (s.reg d) (s.reg r) (s.flag flagC)) (addFlags s.sreg (s.reg d) (s.reg r) (s.flag flagC)))

/-- ADIW Rd+1:Rd,K, d in 24, 26, 28, 30 (R145). -/
def execAdiw (d : RegIx) (K : BitVec 6) (s : State) : Host.Outcome State Fault Refusal :=
  let W := s.pair d
  let res := W + K.setWidth 16
  .next (((s.setSreg (adiwFlags s.sreg W res)).setPair d res).advance 1)

/-- SUB Rd,Rr (R146). -/
def execSub (d : RegIx) (r : RegIx) (s : State) : Host.Outcome State Fault Refusal :=
  .next (s.writeResult d (subBytes (s.reg d) (s.reg r) false) (subFlags s.sreg (s.reg d) (s.reg r) false false))

/-- SUBI Rd,K, 16 ≤ d (R147). -/
def execSubi (d : RegIx) (K : Byte) (s : State) : Host.Outcome State Fault Refusal :=
  .next (s.writeResult d (subBytes (s.reg d) K false) (subFlags s.sreg (s.reg d) K false false))

/-- SBC Rd,Rr (R148). -/
def execSbc (d : RegIx) (r : RegIx) (s : State) : Host.Outcome State Fault Refusal :=
  .next (s.writeResult d (subBytes (s.reg d) (s.reg r) (s.flag flagC)) (subFlags s.sreg (s.reg d) (s.reg r) (s.flag flagC) true))

/-- SBCI Rd,K, 16 ≤ d (R149). -/
def execSbci (d : RegIx) (K : Byte) (s : State) : Host.Outcome State Fault Refusal :=
  .next (s.writeResult d (subBytes (s.reg d) K (s.flag flagC)) (subFlags s.sreg (s.reg d) K (s.flag flagC) true))

/-- SBIW Rd+1:Rd,K, d in 24, 26, 28, 30 (R150). -/
def execSbiw (d : RegIx) (K : BitVec 6) (s : State) : Host.Outcome State Fault Refusal :=
  let W := s.pair d
  let res := W - K.setWidth 16
  .next (((s.setSreg (sbiwFlags s.sreg W res)).setPair d res).advance 1)

/-- AND Rd,Rr (R151). -/
def execAnd (d : RegIx) (r : RegIx) (s : State) : Host.Outcome State Fault Refusal :=
  let res := s.reg d &&& s.reg r
  .next (s.writeResult d res (logicFlags s.sreg res))

/-- ANDI Rd,K, 16 ≤ d (R152). -/
def execAndi (d : RegIx) (K : Byte) (s : State) : Host.Outcome State Fault Refusal :=
  let res := s.reg d &&& K
  .next (s.writeResult d res (logicFlags s.sreg res))

/-- OR Rd,Rr (R153). -/
def execOr (d : RegIx) (r : RegIx) (s : State) : Host.Outcome State Fault Refusal :=
  let res := s.reg d ||| s.reg r
  .next (s.writeResult d res (logicFlags s.sreg res))

/-- ORI Rd,K, 16 ≤ d (R154). -/
def execOri (d : RegIx) (K : Byte) (s : State) : Host.Outcome State Fault Refusal :=
  let res := s.reg d ||| K
  .next (s.writeResult d res (logicFlags s.sreg res))

/-- EOR Rd,Rr (R155). -/
def execEor (d : RegIx) (r : RegIx) (s : State) : Host.Outcome State Fault Refusal :=
  let res := s.reg d ^^^ s.reg r
  .next (s.writeResult d res (logicFlags s.sreg res))

/-- COM Rd (R156). -/
def execCom (d : RegIx) (s : State) : Host.Outcome State Fault Refusal :=
  let res := 0xFF - s.reg d
  .next (s.writeResult d res (comFlags s.sreg res))

/-- NEG Rd (R157). -/
def execNeg (d : RegIx) (s : State) : Host.Outcome State Fault Refusal :=
  .next (s.writeResult d (subBytes 0 (s.reg d) false) (subFlags s.sreg 0 (s.reg d) false false))

/-- SBR Rd,K, another name of ORI (R158). -/
def execSbr (d : RegIx) (K : Byte) (s : State) : Host.Outcome State Fault Refusal :=
  let res := s.reg d ||| K
  .next (s.writeResult d res (logicFlags s.sreg res))

/-- CBR Rd,K, another name of ANDI Rd,0xFF-K (R159). -/
def execCbr (d : RegIx) (K : Byte) (s : State) : Host.Outcome State Fault Refusal :=
  let res := s.reg d &&& (0xFF - K)
  .next (s.writeResult d res (logicFlags s.sreg res))

/-- INC Rd (R160). -/
def execInc (d : RegIx) (s : State) : Host.Outcome State Fault Refusal :=
  let res := s.reg d + 1
  .next (s.writeResult d res (incFlags s.sreg res))

/-- DEC Rd (R161). -/
def execDec (d : RegIx) (s : State) : Host.Outcome State Fault Refusal :=
  let res := s.reg d - 1
  .next (s.writeResult d res (decFlags s.sreg res))

/-- TST Rd, another name of AND Rd,Rd (R162). -/
def execTst (d : RegIx) (s : State) : Host.Outcome State Fault Refusal :=
  let res := s.reg d &&& s.reg d
  .next (s.writeResult d res (logicFlags s.sreg res))

/-- CLR Rd, another name of EOR Rd,Rd (R163). -/
def execClr (d : RegIx) (s : State) : Host.Outcome State Fault Refusal :=
  let res := s.reg d ^^^ s.reg d
  .next (s.writeResult d res (logicFlags s.sreg res))

/-- SER Rd, another name of LDI Rd,0xFF, 16 ≤ d (R164). -/
def execSer (d : RegIx) (s : State) : Host.Outcome State Fault Refusal :=
  .next ((s.setReg d 0xFF).advance 1)

/-- MUL Rd,Rr (R165). -/
def execMul (d : RegIx) (r : RegIx) (s : State) : Host.Outcome State Fault Refusal :=
  let P := BitVec.ofInt 16 (((s.reg d).toNat : Int) * ((s.reg r).toNat : Int))
  .next (s.writeProduct P (mulFlags s.sreg P.msb P))

/-- MULS Rd,Rr, 16 ≤ d, r (R166). -/
def execMuls (d : RegIx) (r : RegIx) (s : State) : Host.Outcome State Fault Refusal :=
  let P := BitVec.ofInt 16 ((s.reg d).toInt * (s.reg r).toInt)
  .next (s.writeProduct P (mulFlags s.sreg P.msb P))

/-- MULSU Rd,Rr, d and r in 16 to 23 (R167). -/
def execMulsu (d : RegIx) (r : RegIx) (s : State) : Host.Outcome State Fault Refusal :=
  let P := BitVec.ofInt 16 ((s.reg d).toInt * ((s.reg r).toNat : Int))
  .next (s.writeProduct P (mulFlags s.sreg P.msb P))

/-- FMUL Rd,Rr, d and r in 16 to 23 (R168). -/
def execFmul (d : RegIx) (r : RegIx) (s : State) : Host.Outcome State Fault Refusal :=
  let P := BitVec.ofInt 16 (((s.reg d).toNat : Int) * ((s.reg r).toNat : Int))
  .next (s.writeProduct (P <<< 1) (mulFlags s.sreg P.msb (P <<< 1)))

/-- FMULS Rd,Rr, d and r in 16 to 23 (R169). -/
def execFmuls (d : RegIx) (r : RegIx) (s : State) : Host.Outcome State Fault Refusal :=
  let P := BitVec.ofInt 16 ((s.reg d).toInt * (s.reg r).toInt)
  .next (s.writeProduct (P <<< 1) (mulFlags s.sreg P.msb (P <<< 1)))

/-- FMULSU Rd,Rr, d and r in 16 to 23 (R170). -/
def execFmulsu (d : RegIx) (r : RegIx) (s : State) : Host.Outcome State Fault Refusal :=
  let P := BitVec.ofInt 16 ((s.reg d).toInt * ((s.reg r).toNat : Int))
  .next (s.writeProduct (P <<< 1) (mulFlags s.sreg P.msb (P <<< 1)))

/-- DES K (R171). -/
def execDes (K : BitVec 4) (s : State) : Host.Outcome State Fault Refusal :=
  let res := desRound (s.block 0) (s.block 8) K (s.flag flagH)
  .next (((s.setBlock 0 res.1).setBlock 8 res.2).advance 1)

end Sys2Proof.Machine
end

