-- ==== Sys2Proof/Machine/BitTest.lean ====
section
/-! DEFINITION. The bit and bit-test instructions (44_bit_and_bit_test.md R360 to R387). -/

namespace Sys2Proof.Machine

open Sys2Proof

/-- LSL Rd, another name of ADD Rd,Rd (R360). -/
def execLsl (d : RegIx) (s : State) : Host.Outcome State Fault Refusal :=
  let res := s.reg d <<< 1
  .next (s.writeResult d res (shiftLeftFlags s.sreg (s.reg d) res))

/-- LSR Rd (R361). -/
def execLsr (d : RegIx) (s : State) : Host.Outcome State Fault Refusal :=
  let res := s.reg d >>> 1
  .next (s.writeResult d res (shiftFlags s.sreg res (getBit (s.reg d) 0)))

/-- ROL Rd, another name of ADC Rd,Rd (R362). -/
def execRol (d : RegIx) (s : State) : Host.Outcome State Fault Refusal :=
  let res := (s.reg d <<< 1) ||| (BitVec.ofBool (s.flag flagC)).setWidth 8
  .next (s.writeResult d res (shiftLeftFlags s.sreg (s.reg d) res))

/-- ROR Rd (R363). -/
def execRor (d : RegIx) (s : State) : Host.Outcome State Fault Refusal :=
  let res := ((BitVec.ofBool (s.flag flagC)).setWidth 8 <<< 7) ||| (s.reg d >>> 1)
  .next (s.writeResult d res (shiftFlags s.sreg res (getBit (s.reg d) 0)))

/-- ASR Rd (R364). -/
def execAsr (d : RegIx) (s : State) : Host.Outcome State Fault Refusal :=
  let res := (s.reg d &&& 0x80) ||| (s.reg d >>> 1)
  .next (s.writeResult d res (shiftFlags s.sreg res (getBit (s.reg d) 0)))

/-- SWAP Rd (R365). -/
def execSwap (d : RegIx) (s : State) : Host.Outcome State Fault Refusal :=
  .next ((s.setReg d ((s.reg d).extractLsb' 0 4 ++ (s.reg d).extractLsb' 4 4)).advance 1)

/-- BSET s (R366). -/
def execBset (n : BitIx) (s : State) : Host.Outcome State Fault Refusal :=
  .next (((s.setSreg (putBit s.sreg n true)).inhibitIf (decide (n = flagI))).advance 1)

/-- BCLR s (R367). -/
def execBclr (n : BitIx) (s : State) : Host.Outcome State Fault Refusal :=
  .next ((s.setSreg (putBit s.sreg n false)).advance 1)

/-- SBI A,b (R368). -/
def execSbi (A : BitVec 5) (b : BitIx) (s : State) : Host.Outcome State Fault Refusal :=
  .next ((setIoBit A b s).advance 1)

/-- CBI A,b (R369). -/
def execCbi (A : BitVec 5) (b : BitIx) (s : State) : Host.Outcome State Fault Refusal :=
  .next ((clearIoBit A b s).advance 1)

/-- BST Rd,b (R370). -/
def execBst (d : RegIx) (b : BitIx) (s : State) : Host.Outcome State Fault Refusal :=
  .next ((s.setSreg (putBit s.sreg flagT (getBit (s.reg d) b))).advance 1)

/-- BLD Rd,b (R371). -/
def execBld (d : RegIx) (b : BitIx) (s : State) : Host.Outcome State Fault Refusal :=
  .next ((s.setReg d (putBit (s.reg d) b (s.flag flagT))).advance 1)

/-- SEC, another name of BSET 0 (R372). -/
def execSec (s : State) : Host.Outcome State Fault Refusal :=
  .next ((s.setSreg (putBit s.sreg flagC true)).advance 1)

/-- CLC, another name of BCLR 0 (R373). -/
def execClc (s : State) : Host.Outcome State Fault Refusal :=
  .next ((s.setSreg (putBit s.sreg flagC false)).advance 1)

/-- SEN, another name of BSET 2 (R374). -/
def execSen (s : State) : Host.Outcome State Fault Refusal :=
  .next ((s.setSreg (putBit s.sreg flagN true)).advance 1)

/-- CLN, another name of BCLR 2 (R375). -/
def execCln (s : State) : Host.Outcome State Fault Refusal :=
  .next ((s.setSreg (putBit s.sreg flagN false)).advance 1)

/-- SEZ, another name of BSET 1 (R376). -/
def execSez (s : State) : Host.Outcome State Fault Refusal :=
  .next ((s.setSreg (putBit s.sreg flagZ true)).advance 1)

/-- CLZ, another name of BCLR 1 (R377). -/
def execClz (s : State) : Host.Outcome State Fault Refusal :=
  .next ((s.setSreg (putBit s.sreg flagZ false)).advance 1)

/-- SEI, another name of BSET 7 (R378). -/
def execSei (s : State) : Host.Outcome State Fault Refusal :=
  .next (((s.setSreg (putBit s.sreg flagI true)).inhibitIf true).advance 1)

/-- CLI, another name of BCLR 7 (R379). -/
def execCli (s : State) : Host.Outcome State Fault Refusal :=
  .next ((s.setSreg (putBit s.sreg flagI false)).advance 1)

/-- SES, another name of BSET 4 (R380). -/
def execSes (s : State) : Host.Outcome State Fault Refusal :=
  .next ((s.setSreg (putBit s.sreg flagS true)).advance 1)

/-- CLS, another name of BCLR 4 (R381). -/
def execCls (s : State) : Host.Outcome State Fault Refusal :=
  .next ((s.setSreg (putBit s.sreg flagS false)).advance 1)

/-- SEV, another name of BSET 3 (R382). -/
def execSev (s : State) : Host.Outcome State Fault Refusal :=
  .next ((s.setSreg (putBit s.sreg flagV true)).advance 1)

/-- CLV, another name of BCLR 3 (R383). -/
def execClv (s : State) : Host.Outcome State Fault Refusal :=
  .next ((s.setSreg (putBit s.sreg flagV false)).advance 1)

/-- SET, another name of BSET 6 (R384). -/
def execSet (s : State) : Host.Outcome State Fault Refusal :=
  .next ((s.setSreg (putBit s.sreg flagT true)).advance 1)

/-- CLT, another name of BCLR 6 (R385). -/
def execClt (s : State) : Host.Outcome State Fault Refusal :=
  .next ((s.setSreg (putBit s.sreg flagT false)).advance 1)

/-- SEH, another name of BSET 5 (R386). -/
def execSeh (s : State) : Host.Outcome State Fault Refusal :=
  .next ((s.setSreg (putBit s.sreg flagH true)).advance 1)

/-- CLH, another name of BCLR 5 (R387). -/
def execClh (s : State) : Host.Outcome State Fault Refusal :=
  .next ((s.setSreg (putBit s.sreg flagH false)).advance 1)

end Sys2Proof.Machine
end

