-- ==== Sys2Proof/Machine/Branch.lean ====
section
/-! DEFINITION. The branch, call, return, compare and skip instructions (41_branch.md R202 to R239). -/

namespace Sys2Proof.Machine

open Sys2Proof

/-- RJMP k, k in two's complement (R202). -/
def execRjmp (k : BitVec 12) (s : State) : Host.Outcome State Fault Refusal :=
  .next (s.advance (k.signExtend 22 + 1))

/-- IJMP (R203). -/
def execIjmp (s : State) : Host.Outcome State Fault Refusal :=
  .next (s.setPc ((s.pair 30).setWidth 22))

/-- EIJMP (R204). -/
def execEijmp (s : State) : Host.Outcome State Fault Refusal :=
  .next (s.setPc (s.eind.extractLsb' 0 6 ++ s.pair 30))

/-- JMP k (R205). -/
def execJmp (k : BitVec 22) (s : State) : Host.Outcome State Fault Refusal :=
  .next (s.setPc k)

/-- RCALL k, k in two's complement (R206). -/
def execRcall (k : BitVec 12) (s : State) : Host.Outcome State Fault Refusal :=
  (callTo (s.pc + 1) (s.pc + (k.signExtend 22 + 1)) s).outcome

/-- ICALL (R207). -/
def execIcall (s : State) : Host.Outcome State Fault Refusal :=
  (callTo (s.pc + 1) ((s.pair 30).setWidth 22) s).outcome

/-- EICALL (R208). -/
def execEicall (s : State) : Host.Outcome State Fault Refusal :=
  (callTo (s.pc + 1) (s.eind.extractLsb' 0 6 ++ s.pair 30) s).outcome

/-- CALL k (R209). -/
def execCall (k : BitVec 22) (s : State) : Host.Outcome State Fault Refusal :=
  (callTo (s.pc + 2) k s).outcome

/-- RET (R210). -/
def execRet (s : State) : Host.Outcome State Fault Refusal :=
  ((popPc s).bind fun ra t => .ok () (t.setPc ra)).outcome

/-- RETI (R211). -/
def execReti (s : State) : Host.Outcome State Fault Refusal :=
  (interruptReturn s).outcome

/-- CPSE Rd,Rr (R212). -/
def execCpse (d : RegIx) (r : RegIx) (s : State) : Host.Outcome State Fault Refusal :=
  (skipIf (decide (s.reg d = s.reg r)) s).outcome

/-- CP Rd,Rr (R213). -/
def execCp (d : RegIx) (r : RegIx) (s : State) : Host.Outcome State Fault Refusal :=
  .next ((s.setSreg (subFlags s.sreg (s.reg d) (s.reg r) false false)).advance 1)

/-- CPC Rd,Rr (R214). -/
def execCpc (d : RegIx) (r : RegIx) (s : State) : Host.Outcome State Fault Refusal :=
  .next ((s.setSreg (subFlags s.sreg (s.reg d) (s.reg r) (s.flag flagC) true)).advance 1)

/-- CPI Rd,K, 16 ≤ d (R215). -/
def execCpi (d : RegIx) (K : Byte) (s : State) : Host.Outcome State Fault Refusal :=
  .next ((s.setSreg (subFlags s.sreg (s.reg d) K false false)).advance 1)

/-- SBRC Rr,b (R216). -/
def execSbrc (r : RegIx) (b : BitIx) (s : State) : Host.Outcome State Fault Refusal :=
  (skipIf (!getBit (s.reg r) b) s).outcome

/-- SBRS Rr,b (R217). -/
def execSbrs (r : RegIx) (b : BitIx) (s : State) : Host.Outcome State Fault Refusal :=
  (skipIf (getBit (s.reg r) b) s).outcome

/-- SBIC A,b (R218). -/
def execSbic (A : BitVec 5) (b : BitIx) (s : State) : Host.Outcome State Fault Refusal :=
  (skipIf (!getBit (ioRead (lowIo A) s).1 b) (ioRead (lowIo A) s).2).outcome

/-- SBIS A,b (R219). -/
def execSbis (A : BitVec 5) (b : BitIx) (s : State) : Host.Outcome State Fault Refusal :=
  (skipIf (getBit (ioRead (lowIo A) s).1 b) (ioRead (lowIo A) s).2).outcome

/-- BRBS s,k (R220). -/
def execBrbs (n : BitIx) (k : BitVec 7) (s : State) : Host.Outcome State Fault Refusal :=
  .next (s.branchIf (s.flag n) k)

/-- BRBC s,k (R221). -/
def execBrbc (n : BitIx) (k : BitVec 7) (s : State) : Host.Outcome State Fault Refusal :=
  .next (s.branchIf (!s.flag n) k)

/-- BREQ k, another name of BRBS 1,k (R222). -/
def execBreq (k : BitVec 7) (s : State) : Host.Outcome State Fault Refusal :=
  .next (s.branchIf (s.flag flagZ) k)

/-- BRNE k, another name of BRBC 1,k (R223). -/
def execBrne (k : BitVec 7) (s : State) : Host.Outcome State Fault Refusal :=
  .next (s.branchIf (!s.flag flagZ) k)

/-- BRCS k, another name of BRBS 0,k (R224). -/
def execBrcs (k : BitVec 7) (s : State) : Host.Outcome State Fault Refusal :=
  .next (s.branchIf (s.flag flagC) k)

/-- BRCC k, another name of BRBC 0,k (R225). -/
def execBrcc (k : BitVec 7) (s : State) : Host.Outcome State Fault Refusal :=
  .next (s.branchIf (!s.flag flagC) k)

/-- BRSH k, another name of BRBC 0,k (R226). -/
def execBrsh (k : BitVec 7) (s : State) : Host.Outcome State Fault Refusal :=
  .next (s.branchIf (!s.flag flagC) k)

/-- BRLO k, another name of BRBS 0,k (R227). -/
def execBrlo (k : BitVec 7) (s : State) : Host.Outcome State Fault Refusal :=
  .next (s.branchIf (s.flag flagC) k)

/-- BRMI k, another name of BRBS 2,k (R228). -/
def execBrmi (k : BitVec 7) (s : State) : Host.Outcome State Fault Refusal :=
  .next (s.branchIf (s.flag flagN) k)

/-- BRPL k, another name of BRBC 2,k (R229). -/
def execBrpl (k : BitVec 7) (s : State) : Host.Outcome State Fault Refusal :=
  .next (s.branchIf (!s.flag flagN) k)

/-- BRGE k, another name of BRBC 4,k (R230). -/
def execBrge (k : BitVec 7) (s : State) : Host.Outcome State Fault Refusal :=
  .next (s.branchIf (!s.flag flagS) k)

/-- BRLT k, another name of BRBS 4,k (R231). -/
def execBrlt (k : BitVec 7) (s : State) : Host.Outcome State Fault Refusal :=
  .next (s.branchIf (s.flag flagS) k)

/-- BRHS k, another name of BRBS 5,k (R232). -/
def execBrhs (k : BitVec 7) (s : State) : Host.Outcome State Fault Refusal :=
  .next (s.branchIf (s.flag flagH) k)

/-- BRHC k, another name of BRBC 5,k (R233). -/
def execBrhc (k : BitVec 7) (s : State) : Host.Outcome State Fault Refusal :=
  .next (s.branchIf (!s.flag flagH) k)

/-- BRTS k, another name of BRBS 6,k (R234). -/
def execBrts (k : BitVec 7) (s : State) : Host.Outcome State Fault Refusal :=
  .next (s.branchIf (s.flag flagT) k)

/-- BRTC k, another name of BRBC 6,k (R235). -/
def execBrtc (k : BitVec 7) (s : State) : Host.Outcome State Fault Refusal :=
  .next (s.branchIf (!s.flag flagT) k)

/-- BRVS k, another name of BRBS 3,k (R236). -/
def execBrvs (k : BitVec 7) (s : State) : Host.Outcome State Fault Refusal :=
  .next (s.branchIf (s.flag flagV) k)

/-- BRVC k, another name of BRBC 3,k (R237). -/
def execBrvc (k : BitVec 7) (s : State) : Host.Outcome State Fault Refusal :=
  .next (s.branchIf (!s.flag flagV) k)

/-- BRIE k, another name of BRBS 7,k (R238). -/
def execBrie (k : BitVec 7) (s : State) : Host.Outcome State Fault Refusal :=
  .next (s.branchIf (s.flag flagI) k)

/-- BRID k, another name of BRBC 7,k (R239). -/
def execBrid (k : BitVec 7) (s : State) : Host.Outcome State Fault Refusal :=
  .next (s.branchIf (!s.flag flagI) k)

end Sys2Proof.Machine
end

