-- ==== Sys2Proof/Machine/DataTransfer.lean ====
section
/-! DEFINITION. Register moves, loads and stores of the data space (42_data_transfer_load_store.md R261 to R289). -/

namespace Sys2Proof.Machine

open Sys2Proof

/-- MOV Rd,Rr (R261). -/
def execMov (d : RegIx) (r : RegIx) (s : State) : Host.Outcome State Fault Refusal :=
  .next ((s.setReg d (s.reg r)).advance 1)

/-- MOVW Rd+1:Rd,Rr+1:Rr, d and r even (R262). -/
def execMovw (d : RegIx) (r : RegIx) (s : State) : Host.Outcome State Fault Refusal :=
  .next ((s.setPair d (s.pair r)).advance 1)

/-- LDI Rd,K, 16 ≤ d (R263). -/
def execLdi (d : RegIx) (K : Byte) (s : State) : Host.Outcome State Fault Refusal :=
  .next ((s.setReg d K).advance 1)

/-- LDS Rd,k, two words (R264). -/
def execLds (d : RegIx) (k : Word) (s : State) : Host.Outcome State Fault Refusal :=
  (loadAt d (directAddr k s) 2 s).outcome

/-- LDS Rd,k, the 16-bit form of the Reduced Core, 16 ≤ d (R265). -/
def execLds16 (d : RegIx) (k : BitVec 7) (s : State) : Host.Outcome State Fault Refusal :=
  (loadAt d (shortAddr k) 1 s).outcome

/-- LD Rd,X (R266). -/
def execLdX (d : RegIx) (s : State) : Host.Outcome State Fault Refusal :=
  (loadAt d (ptrGet .x s) 1 s).outcome

/-- LD Rd,X+ (R267). -/
def execLdXInc (d : RegIx) (s : State) : Host.Outcome State Fault Refusal :=
  (loadPostInc (.ldXInc d) .x d s).outcome

/-- LD Rd,-X (R268). -/
def execLdXDec (d : RegIx) (s : State) : Host.Outcome State Fault Refusal :=
  (loadPreDec (.ldXDec d) .x d s).outcome

/-- LD Rd,Y, another name of LDD Rd,Y+0 (R269). -/
def execLdY (d : RegIx) (s : State) : Host.Outcome State Fault Refusal :=
  (loadAt d (ptrGet .y s) 1 s).outcome

/-- LD Rd,Y+ (R270). -/
def execLdYInc (d : RegIx) (s : State) : Host.Outcome State Fault Refusal :=
  (loadPostInc (.ldYInc d) .y d s).outcome

/-- LD Rd,-Y (R271). -/
def execLdYDec (d : RegIx) (s : State) : Host.Outcome State Fault Refusal :=
  (loadPreDec (.ldYDec d) .y d s).outcome

/-- LDD Rd,Y+q (R272). -/
def execLddY (d : RegIx) (q : BitVec 6) (s : State) : Host.Outcome State Fault Refusal :=
  (loadAt d (ptrDisp .y q s) 1 s).outcome

/-- LD Rd,Z, another name of LDD Rd,Z+0 (R273). -/
def execLdZ (d : RegIx) (s : State) : Host.Outcome State Fault Refusal :=
  (loadAt d (ptrGet .z s) 1 s).outcome

/-- LD Rd,Z+ (R274). -/
def execLdZInc (d : RegIx) (s : State) : Host.Outcome State Fault Refusal :=
  (loadPostInc (.ldZInc d) .z d s).outcome

/-- LD Rd,-Z (R275). -/
def execLdZDec (d : RegIx) (s : State) : Host.Outcome State Fault Refusal :=
  (loadPreDec (.ldZDec d) .z d s).outcome

/-- LDD Rd,Z+q (R276). -/
def execLddZ (d : RegIx) (q : BitVec 6) (s : State) : Host.Outcome State Fault Refusal :=
  (loadAt d (ptrDisp .z q s) 1 s).outcome

/-- STS k,Rr, two words (R277). -/
def execSts (k : Word) (r : RegIx) (s : State) : Host.Outcome State Fault Refusal :=
  (storeAt (directAddr k s) (s.reg r) 2 s).outcome

/-- STS k,Rr, the 16-bit form of the Reduced Core, 16 ≤ r (R278). -/
def execSts16 (k : BitVec 7) (r : RegIx) (s : State) : Host.Outcome State Fault Refusal :=
  (storeAt (shortAddr k) (s.reg r) 1 s).outcome

/-- ST X,Rr (R279). -/
def execStX (r : RegIx) (s : State) : Host.Outcome State Fault Refusal :=
  (storeAt (ptrGet .x s) (s.reg r) 1 s).outcome

/-- ST X+,Rr (R280). -/
def execStXInc (r : RegIx) (s : State) : Host.Outcome State Fault Refusal :=
  (storePostInc (.stXInc r) .x r s).outcome

/-- ST -X,Rr (R281). -/
def execStXDec (r : RegIx) (s : State) : Host.Outcome State Fault Refusal :=
  (storePreDec (.stXDec r) .x r s).outcome

/-- ST Y,Rr, another name of STD Y+0,Rr (R282). -/
def execStY (r : RegIx) (s : State) : Host.Outcome State Fault Refusal :=
  (storeAt (ptrGet .y s) (s.reg r) 1 s).outcome

/-- ST Y+,Rr (R283). -/
def execStYInc (r : RegIx) (s : State) : Host.Outcome State Fault Refusal :=
  (storePostInc (.stYInc r) .y r s).outcome

/-- ST -Y,Rr (R284). -/
def execStYDec (r : RegIx) (s : State) : Host.Outcome State Fault Refusal :=
  (storePreDec (.stYDec r) .y r s).outcome

/-- STD Y+q,Rr (R285). -/
def execStdY (q : BitVec 6) (r : RegIx) (s : State) : Host.Outcome State Fault Refusal :=
  (storeAt (ptrDisp .y q s) (s.reg r) 1 s).outcome

/-- ST Z,Rr, another name of STD Z+0,Rr (R286). -/
def execStZ (r : RegIx) (s : State) : Host.Outcome State Fault Refusal :=
  (storeAt (ptrGet .z s) (s.reg r) 1 s).outcome

/-- ST Z+,Rr (R287). -/
def execStZInc (r : RegIx) (s : State) : Host.Outcome State Fault Refusal :=
  (storePostInc (.stZInc r) .z r s).outcome

/-- ST -Z,Rr (R288). -/
def execStZDec (r : RegIx) (s : State) : Host.Outcome State Fault Refusal :=
  (storePreDec (.stZDec r) .z r s).outcome

/-- STD Z+q,Rr (R289). -/
def execStdZ (q : BitVec 6) (r : RegIx) (s : State) : Host.Outcome State Fault Refusal :=
  (storeAt (ptrDisp .z q s) (s.reg r) 1 s).outcome

end Sys2Proof.Machine
end

