-- ==== Sys2Proof/Machine/McuControl.lean ====
section
/-! DEFINITION. The MCU control instructions (45_mcu_control.md R420 to R423). -/

namespace Sys2Proof.Machine

open Sys2Proof

/-- BREAK (R420). -/
def execBrk (s : State) : Host.Outcome State Fault Refusal :=
  .next (if s.cfg.ocdEnabled then { s.advance 1 with run := .stopped } else s.advance 1)

/-- NOP (R421). -/
def execNop (s : State) : Host.Outcome State Fault Refusal :=
  .next (s.advance 1)

/-- SLEEP (R422). -/
def execSleep (s : State) : Host.Outcome State Fault Refusal :=
  .next (if devSleepEnabled s then { s.advance 1 with run := .sleeping } else s.advance 1)

/-- WDR (R423). -/
def execWdr (s : State) : Host.Outcome State Fault Refusal :=
  .next ((devWdr s).advance 1)

end Sys2Proof.Machine
end

