-- ==== Sys2Proof/Machine/ProgramIo.lean ====
section
/-! DEFINITION. Program memory, I/O, stack and read-modify-write instructions (43_data_transfer_progmem_io_stack.md R320 to
R335). -/

namespace Sys2Proof.Machine

open Sys2Proof

/-- LPM, R0 implied (R320). -/
def execLpmR0 (s : State) : Host.Outcome State Fault Refusal :=
  (progLoadAt 0 (lpmAddr s) s).outcome

/-- LPM Rd,Z (R321). -/
def execLpm (d : RegIx) (s : State) : Host.Outcome State Fault Refusal :=
  (progLoadAt d (lpmAddr s) s).outcome

/-- LPM Rd,Z+ (R322). -/
def execLpmZInc (d : RegIx) (s : State) : Host.Outcome State Fault Refusal :=
  if Pointer.z.owns d then (undefinedOperand (.lpmZInc d) s).outcome
  else ((progLoad (lpmAddr s).toNat s).bind fun v t =>
    .ok () (((t.setReg d v).setPair 30 (s.pair 30 + 1)).advance 1)).outcome

/-- ELPM, R0 implied (R323). -/
def execElpmR0 (s : State) : Host.Outcome State Fault Refusal :=
  (progLoadAt 0 (elpmAddr s) s).outcome

/-- ELPM Rd,Z (R324). -/
def execElpm (d : RegIx) (s : State) : Host.Outcome State Fault Refusal :=
  (progLoadAt d (elpmAddr s) s).outcome

/-- ELPM Rd,Z+ (R325). -/
def execElpmZInc (d : RegIx) (s : State) : Host.Outcome State Fault Refusal :=
  if Pointer.z.owns d then (undefinedOperand (.elpmZInc d) s).outcome
  else ((progLoad (elpmAddr s).toNat s).bind fun v t =>
    .ok () ((setElpmAddr (elpmAddr s + 1) (t.setReg d v)).advance 1)).outcome

/-- SPM (R326). -/
def execSpm (s : State) : Host.Outcome State Fault Refusal :=
  .next ((spmOp .spm s).advance 1)

/-- SPM Z+ (R327). -/
def execSpmZInc (s : State) : Host.Outcome State Fault Refusal :=
  .next (((spmOp .spmZInc s).setPair 30 (s.pair 30 + 2)).advance 1)

/-- IN Rd,A (R328). -/
def execInp (d : RegIx) (A : BitVec 6) (s : State) : Host.Outcome State Fault Refusal :=
  .next (((ioRead A s).2.setReg d (ioRead A s).1).advance 1)

/-- OUT A,Rr (R329). -/
def execOut (A : BitVec 6) (r : RegIx) (s : State) : Host.Outcome State Fault Refusal :=
  .next ((ioWrite A (s.reg r) s).advance 1)

/-- PUSH Rr (R330). -/
def execPush (r : RegIx) (s : State) : Host.Outcome State Fault Refusal :=
  ((push (s.reg r) s).bind fun _ t => .ok () (t.advance 1)).outcome

/-- POP Rd (R331). -/
def execPop (d : RegIx) (s : State) : Host.Outcome State Fault Refusal :=
  ((pop s).bind fun v t => .ok () ((t.setReg d v).advance 1)).outcome

/-- XCH Z,Rd (R332). -/
def execXch (d : RegIx) (s : State) : Host.Outcome State Fault Refusal :=
  (exchangeAt (fun rd _ => rd) d s).outcome

/-- LAS Z,Rd (R333). -/
def execLas (d : RegIx) (s : State) : Host.Outcome State Fault Refusal :=
  (exchangeAt (fun rd old => rd ||| old) d s).outcome

/-- LAC Z,Rd (R334). -/
def execLac (d : RegIx) (s : State) : Host.Outcome State Fault Refusal :=
  (exchangeAt (fun rd old => ~~~rd &&& old) d s).outcome

/-- LAT Z,Rd (R335). -/
def execLat (d : RegIx) (s : State) : Host.Outcome State Fault Refusal :=
  (exchangeAt (fun rd old => rd ^^^ old) d s).outcome

end Sys2Proof.Machine
end

