-- ==== Sys2Proof/Machine/Dispatch.lean ====
section
/-! DEFINITION. The dispatch: one arm per constructor of Instr, each one call of its meaning. -/

namespace Sys2Proof.Machine

open Sys2Proof

/-- The meaning of an instruction. -/
def exec (i : Instr) (s : State) : Host.Outcome State Fault Refusal :=
  match i with
  | .add d r => Sys2Proof.Machine.execAdd d r s
  | .adc d r => Sys2Proof.Machine.execAdc d r s
  | .adiw d K => Sys2Proof.Machine.execAdiw d K s
  | .sub d r => Sys2Proof.Machine.execSub d r s
  | .subi d K => Sys2Proof.Machine.execSubi d K s
  | .sbc d r => Sys2Proof.Machine.execSbc d r s
  | .sbci d K => Sys2Proof.Machine.execSbci d K s
  | .sbiw d K => Sys2Proof.Machine.execSbiw d K s
  | .and d r => Sys2Proof.Machine.execAnd d r s
  | .andi d K => Sys2Proof.Machine.execAndi d K s
  | .or d r => Sys2Proof.Machine.execOr d r s
  | .ori d K => Sys2Proof.Machine.execOri d K s
  | .eor d r => Sys2Proof.Machine.execEor d r s
  | .com d => Sys2Proof.Machine.execCom d s
  | .neg d => Sys2Proof.Machine.execNeg d s
  | .sbr d K => Sys2Proof.Machine.execSbr d K s
  | .cbr d K => Sys2Proof.Machine.execCbr d K s
  | .inc d => Sys2Proof.Machine.execInc d s
  | .dec d => Sys2Proof.Machine.execDec d s
  | .tst d => Sys2Proof.Machine.execTst d s
  | .clr d => Sys2Proof.Machine.execClr d s
  | .ser d => Sys2Proof.Machine.execSer d s
  | .mul d r => Sys2Proof.Machine.execMul d r s
  | .muls d r => Sys2Proof.Machine.execMuls d r s
  | .mulsu d r => Sys2Proof.Machine.execMulsu d r s
  | .fmul d r => Sys2Proof.Machine.execFmul d r s
  | .fmuls d r => Sys2Proof.Machine.execFmuls d r s
  | .fmulsu d r => Sys2Proof.Machine.execFmulsu d r s
  | .des K => Sys2Proof.Machine.execDes K s
  | .rjmp k => Sys2Proof.Machine.execRjmp k s
  | .ijmp => Sys2Proof.Machine.execIjmp s
  | .eijmp => Sys2Proof.Machine.execEijmp s
  | .jmp k => Sys2Proof.Machine.execJmp k s
  | .rcall k => Sys2Proof.Machine.execRcall k s
  | .icall => Sys2Proof.Machine.execIcall s
  | .eicall => Sys2Proof.Machine.execEicall s
  | .call k => Sys2Proof.Machine.execCall k s
  | .ret => Sys2Proof.Machine.execRet s
  | .reti => Sys2Proof.Machine.execReti s
  | .cpse d r => Sys2Proof.Machine.execCpse d r s
  | .cp d r => Sys2Proof.Machine.execCp d r s
  | .cpc d r => Sys2Proof.Machine.execCpc d r s
  | .cpi d K => Sys2Proof.Machine.execCpi d K s
  | .sbrc r b => Sys2Proof.Machine.execSbrc r b s
  | .sbrs r b => Sys2Proof.Machine.execSbrs r b s
  | .sbic A b => Sys2Proof.Machine.execSbic A b s
  | .sbis A b => Sys2Proof.Machine.execSbis A b s
  | .brbs n k => Sys2Proof.Machine.execBrbs n k s
  | .brbc n k => Sys2Proof.Machine.execBrbc n k s
  | .breq k => Sys2Proof.Machine.execBreq k s
  | .brne k => Sys2Proof.Machine.execBrne k s
  | .brcs k => Sys2Proof.Machine.execBrcs k s
  | .brcc k => Sys2Proof.Machine.execBrcc k s
  | .brsh k => Sys2Proof.Machine.execBrsh k s
  | .brlo k => Sys2Proof.Machine.execBrlo k s
  | .brmi k => Sys2Proof.Machine.execBrmi k s
  | .brpl k => Sys2Proof.Machine.execBrpl k s
  | .brge k => Sys2Proof.Machine.execBrge k s
  | .brlt k => Sys2Proof.Machine.execBrlt k s
  | .brhs k => Sys2Proof.Machine.execBrhs k s
  | .brhc k => Sys2Proof.Machine.execBrhc k s
  | .brts k => Sys2Proof.Machine.execBrts k s
  | .brtc k => Sys2Proof.Machine.execBrtc k s
  | .brvs k => Sys2Proof.Machine.execBrvs k s
  | .brvc k => Sys2Proof.Machine.execBrvc k s
  | .brie k => Sys2Proof.Machine.execBrie k s
  | .brid k => Sys2Proof.Machine.execBrid k s
  | .mov d r => Sys2Proof.Machine.execMov d r s
  | .movw d r => Sys2Proof.Machine.execMovw d r s
  | .ldi d K => Sys2Proof.Machine.execLdi d K s
  | .lds d k => Sys2Proof.Machine.execLds d k s
  | .lds16 d k => Sys2Proof.Machine.execLds16 d k s
  | .ldX d => Sys2Proof.Machine.execLdX d s
  | .ldXInc d => Sys2Proof.Machine.execLdXInc d s
  | .ldXDec d => Sys2Proof.Machine.execLdXDec d s
  | .ldY d => Sys2Proof.Machine.execLdY d s
  | .ldYInc d => Sys2Proof.Machine.execLdYInc d s
  | .ldYDec d => Sys2Proof.Machine.execLdYDec d s
  | .lddY d q => Sys2Proof.Machine.execLddY d q s
  | .ldZ d => Sys2Proof.Machine.execLdZ d s
  | .ldZInc d => Sys2Proof.Machine.execLdZInc d s
  | .ldZDec d => Sys2Proof.Machine.execLdZDec d s
  | .lddZ d q => Sys2Proof.Machine.execLddZ d q s
  | .sts k r => Sys2Proof.Machine.execSts k r s
  | .sts16 k r => Sys2Proof.Machine.execSts16 k r s
  | .stX r => Sys2Proof.Machine.execStX r s
  | .stXInc r => Sys2Proof.Machine.execStXInc r s
  | .stXDec r => Sys2Proof.Machine.execStXDec r s
  | .stY r => Sys2Proof.Machine.execStY r s
  | .stYInc r => Sys2Proof.Machine.execStYInc r s
  | .stYDec r => Sys2Proof.Machine.execStYDec r s
  | .stdY q r => Sys2Proof.Machine.execStdY q r s
  | .stZ r => Sys2Proof.Machine.execStZ r s
  | .stZInc r => Sys2Proof.Machine.execStZInc r s
  | .stZDec r => Sys2Proof.Machine.execStZDec r s
  | .stdZ q r => Sys2Proof.Machine.execStdZ q r s
  | .lpmR0 => Sys2Proof.Machine.execLpmR0 s
  | .lpm d => Sys2Proof.Machine.execLpm d s
  | .lpmZInc d => Sys2Proof.Machine.execLpmZInc d s
  | .elpmR0 => Sys2Proof.Machine.execElpmR0 s
  | .elpm d => Sys2Proof.Machine.execElpm d s
  | .elpmZInc d => Sys2Proof.Machine.execElpmZInc d s
  | .spm => Sys2Proof.Machine.execSpm s
  | .spmZInc => Sys2Proof.Machine.execSpmZInc s
  | .inp d A => Sys2Proof.Machine.execInp d A s
  | .out A r => Sys2Proof.Machine.execOut A r s
  | .push r => Sys2Proof.Machine.execPush r s
  | .pop d => Sys2Proof.Machine.execPop d s
  | .xch d => Sys2Proof.Machine.execXch d s
  | .las d => Sys2Proof.Machine.execLas d s
  | .lac d => Sys2Proof.Machine.execLac d s
  | .lat d => Sys2Proof.Machine.execLat d s
  | .lsl d => Sys2Proof.Machine.execLsl d s
  | .lsr d => Sys2Proof.Machine.execLsr d s
  | .rol d => Sys2Proof.Machine.execRol d s
  | .ror d => Sys2Proof.Machine.execRor d s
  | .asr d => Sys2Proof.Machine.execAsr d s
  | .swap d => Sys2Proof.Machine.execSwap d s
  | .bset n => Sys2Proof.Machine.execBset n s
  | .bclr n => Sys2Proof.Machine.execBclr n s
  | .sbi A b => Sys2Proof.Machine.execSbi A b s
  | .cbi A b => Sys2Proof.Machine.execCbi A b s
  | .bst d b => Sys2Proof.Machine.execBst d b s
  | .bld d b => Sys2Proof.Machine.execBld d b s
  | .sec => Sys2Proof.Machine.execSec s
  | .clc => Sys2Proof.Machine.execClc s
  | .sen => Sys2Proof.Machine.execSen s
  | .cln => Sys2Proof.Machine.execCln s
  | .sez => Sys2Proof.Machine.execSez s
  | .clz => Sys2Proof.Machine.execClz s
  | .sei => Sys2Proof.Machine.execSei s
  | .cli => Sys2Proof.Machine.execCli s
  | .ses => Sys2Proof.Machine.execSes s
  | .cls => Sys2Proof.Machine.execCls s
  | .sev => Sys2Proof.Machine.execSev s
  | .clv => Sys2Proof.Machine.execClv s
  | .set => Sys2Proof.Machine.execSet s
  | .clt => Sys2Proof.Machine.execClt s
  | .seh => Sys2Proof.Machine.execSeh s
  | .clh => Sys2Proof.Machine.execClh s
  | .brk => Sys2Proof.Machine.execBrk s
  | .nop => Sys2Proof.Machine.execNop s
  | .sleep => Sys2Proof.Machine.execSleep s
  | .wdr => Sys2Proof.Machine.execWdr s

end Sys2Proof.Machine
end

