-- ==== Sys2Proof/Machine/Availability.lean ====
section
/-! DEFINITION. Which instructions a device has (00_scope.md R4, R6, R24, 30_encoding.md R115, 60_exceptions.md R431): the
conditions under which the decoded instruction is `ReservedOpcode`. -/

namespace Sys2Proof.Machine

open Sys2Proof

/-- The members of `Cfg.Avail` to which an instruction's word belongs (R6, R260); an instruction that every device has, or an
alias of one, has none. The words of LD and ST without displacement are also words of LDD and STD with displacement zero
(R113); a device with either form has them (log 30). -/
def optionalRows : Instr → List OptionalRow
  | .add _ _ | .adc _ _ | .sub _ _ | .subi _ _ | .sbc _ _ | .sbci _ _ | .and _ _ | .andi _ _ | .or _ _ | .ori _ _
  | .eor _ _ | .com _ | .neg _ | .sbr _ _ | .cbr _ _ | .inc _ | .dec _ | .tst _ | .clr _ | .ser _ | .rjmp _
  | .rcall _ | .ret | .reti | .cpse _ _ | .cp _ _ | .cpc _ _ | .cpi _ _ | .sbrc _ _ | .sbrs _ _ | .sbic _ _
  | .sbis _ _ | .brbs _ _ | .brbc _ _ | .breq _ | .brne _ | .brcs _ | .brcc _ | .brsh _ | .brlo _ | .brmi _
  | .brpl _ | .brge _ | .brlt _ | .brhs _ | .brhc _ | .brts _ | .brtc _ | .brvs _ | .brvc _ | .brie _ | .brid _
  | .mov _ _ | .ldi _ _ | .inp _ _ | .out _ _ | .lsl _ | .lsr _ | .rol _ | .ror _ | .asr _ | .swap _ | .bset _
  | .bclr _ | .sbi _ _ | .cbi _ _ | .bst _ _ | .bld _ _ | .sec | .clc | .sen | .cln | .sez | .clz | .sei | .cli
  | .ses | .cls | .sev | .clv | .set | .clt | .seh | .clh | .nop | .sleep | .wdr => []
  | .adiw _ _ => [.adiw]
  | .sbiw _ _ => [.sbiw]
  | .mul _ _ => [.mul]
  | .muls _ _ => [.muls]
  | .mulsu _ _ => [.mulsu]
  | .fmul _ _ => [.fmul]
  | .fmuls _ _ => [.fmuls]
  | .fmulsu _ _ => [.fmulsu]
  | .des _ => [.des]
  | .ijmp => [.ijmp]
  | .eijmp => [.eijmp]
  | .jmp _ => [.jmp]
  | .icall => [.icall]
  | .eicall => [.eicall]
  | .call _ => [.call]
  | .movw _ _ => [.movw]
  | .lds _ _ => [.lds]
  | .lds16 _ _ => [.lds16]
  | .ldX _ => [.ldX]
  | .ldXInc _ => [.ldXInc]
  | .ldXDec _ => [.ldXDec]
  | .ldY _ => [.ldY, .lddY]
  | .ldYInc _ => [.ldYInc]
  | .ldYDec _ => [.ldYDec]
  | .lddY _ q => if q = 0 then [.ldY, .lddY] else [.lddY]
  | .ldZ _ => [.ldZ, .lddZ]
  | .ldZInc _ => [.ldZInc]
  | .ldZDec _ => [.ldZDec]
  | .lddZ _ q => if q = 0 then [.ldZ, .lddZ] else [.lddZ]
  | .sts _ _ => [.sts]
  | .sts16 _ _ => [.sts16]
  | .stX _ => [.stX]
  | .stXInc _ => [.stXInc]
  | .stXDec _ => [.stXDec]
  | .stY _ => [.stY, .stdY]
  | .stYInc _ => [.stYInc]
  | .stYDec _ => [.stYDec]
  | .stdY q _ => if q = 0 then [.stY, .stdY] else [.stdY]
  | .stZ _ => [.stZ, .stdZ]
  | .stZInc _ => [.stZInc]
  | .stZDec _ => [.stZDec]
  | .stdZ q _ => if q = 0 then [.stZ, .stdZ] else [.stdZ]
  | .lpmR0 => [.lpmR0]
  | .lpm _ => [.lpm]
  | .lpmZInc _ => [.lpmZInc]
  | .elpmR0 => [.elpmR0]
  | .elpm _ => [.elpm]
  | .elpmZInc _ => [.elpmZInc]
  | .spm => [.spm]
  | .spmZInc => [.spmZInc]
  | .push _ => [.push]
  | .pop _ => [.pop]
  | .xch _ => [.xch]
  | .las _ => [.las]
  | .lac _ => [.lac]
  | .lat _ => [.lat]
  | .brk => [.brk]

/-- The register operands of an instruction, explicit and implicit (R21, R24; log 23). The pointers are R26 to R31 and are not
listed. -/
def registersOf : Instr → List RegIx
  | .add d r | .adc d r | .sub d r | .sbc d r | .and d r | .or d r | .eor d r | .cpse d r | .cp d r | .cpc d r
  | .mov d r | .movw d r => [d, r]
  | .adiw d _ | .subi d _ | .sbci d _ | .sbiw d _ | .andi d _ | .ori d _ | .com d | .neg d | .sbr d _ | .cbr d _
  | .inc d | .dec d | .tst d | .clr d | .ser d | .cpi d _ | .ldi d _ | .lds d _ | .lds16 d _ | .ldX d
  | .ldXInc d | .ldXDec d | .ldY d | .ldYInc d | .ldYDec d | .lddY d _ | .ldZ d | .ldZInc d | .ldZDec d
  | .lddZ d _ | .lpm d | .lpmZInc d | .elpm d | .elpmZInc d | .inp d _ | .pop d | .xch d | .las d | .lac d
  | .lat d | .lsl d | .lsr d | .rol d | .ror d | .asr d | .swap d | .bst d _ | .bld d _ => [d]
  | .mul d r | .muls d r | .mulsu d r | .fmul d r | .fmuls d r | .fmulsu d r => [d, r, 0, 1]
  | .des _ => [0, 8, 15]
  | .rjmp _ | .ijmp | .eijmp | .jmp _ | .rcall _ | .icall | .eicall | .call _ | .ret | .reti | .sbic _ _
  | .sbis _ _ | .brbs _ _ | .brbc _ _ | .breq _ | .brne _ | .brcs _ | .brcc _ | .brsh _ | .brlo _ | .brmi _
  | .brpl _ | .brge _ | .brlt _ | .brhs _ | .brhc _ | .brts _ | .brtc _ | .brvs _ | .brvc _ | .brie _ | .brid _
  | .bset _ | .bclr _ | .sbi _ _ | .cbi _ _ | .sec | .clc | .sen | .cln | .sez | .clz | .sei | .cli | .ses
  | .cls | .sev | .clv | .set | .clt | .seh | .clh | .brk | .nop | .sleep | .wdr => []
  | .sbrc r _ | .sbrs r _ | .sts _ r | .sts16 _ r | .stX r | .stXInc r | .stXDec r | .stY r | .stYInc r
  | .stYDec r | .stdY _ r | .stZ r | .stZInc r | .stZDec r | .stdZ _ r | .out _ r | .push r => [r]
  | .lpmR0 | .elpmR0 => [0]
  | .spm | .spmZInc => [0, 1]

/-- Whether the registers an instruction names exist (R24). -/
def registersExist (c : Config) (i : Instr) : Bool :=
  match c.numRegs with
  | .regs32 => true
  | .regs16 => (registersOf i).all fun d => decide (16 ≤ d.val)

/-- The conditions on an optional row beside `Cfg.Avail`: 22-bit PC (R204, R208), RAMPZ (R323), `DesRound` (R171), `SpmOp`
(R326), the XMEGA core (R327, R332 to R335), the Reduced Core or not (R264, R277; log 26). -/
def featureOf (c : Config) : OptionalRow → Bool
  | .eijmp => longPc c
  | .eicall => longPc c
  | .elpmR0 => c.progGt64k
  | .elpm => c.progGt64k
  | .elpmZInc => c.progGt64k
  | .des => c.desRound
  | .spm => c.spmOp.isSome
  | .spmZInc => c.spmOp.isSome && decide (c.core = .xmega)
  | .xch => decide (c.core = .xmega)
  | .las => decide (c.core = .xmega)
  | .lac => decide (c.core = .xmega)
  | .lat => decide (c.core = .xmega)
  | .lds => decide (c.core ≠ .rc)
  | .sts => decide (c.core ≠ .rc)
  | .adiw | .sbiw | .mul | .muls | .mulsu | .fmul | .fmuls | .fmulsu | .ijmp | .jmp | .icall | .call | .movw
  | .lds16 | .ldX | .ldXInc | .ldXDec | .ldY | .ldYInc | .ldYDec | .lddY | .ldZ | .ldZInc | .ldZDec | .lddZ
  | .sts16 | .stX | .stXInc | .stXDec | .stY | .stYInc | .stYDec | .stdY | .stZ | .stZInc | .stZDec | .stdZ
  | .lpmR0 | .lpm | .lpmZInc | .push | .pop | .brk => true

/-- Whether the device has an instruction by `Cfg.Avail` (R6): one that is not optional, or one of whose rows is available. -/
def available (c : Config) (i : Instr) : Bool :=
  (optionalRows i).isEmpty || (optionalRows i).any fun m => !c.absent.contains m && featureOf c m

/-- Whether a device has an instruction: decode raises ReservedOpcode where it has not (R115, R431). -/
def admits (c : Config) (i : Instr) : Bool := available c i && registersExist c i

end Sys2Proof.Machine
end

