-- ==== Sys2Proof/Machine/Fetch.lean ====
section
/-! DEFINITION. Fetching and decoding the instruction at the PC (60_exceptions.md R433, R447), and placing one there. -/

namespace Sys2Proof.Machine

open Sys2Proof

/-- What the fetch answers: the first word and the instruction, or the fault of R433 (1) to (3). -/
inductive Fetched where
  | instr (w : Word) (i : Instr)
  | stop (f : FaultInfo)

/-- The checks of R433 in order: the first word, its decoding and availability, the second word. The operand combination
(4) is checked by the meanings. -/
def fetch (s : State) : Fetched :=
  match progRead s s.pc.toNat with
  | none => .stop (.fetchOutOfRange s.pc.toNat)
  | some w =>
    match decode s.cfg.core w 0 with
    | none => .stop (.reservedOpcode s.pc w)
    | some i =>
      if admits s.cfg i then
        if isTwoWord w then
          match progRead s (s.pcPlus 1).toNat with
          | none => .stop (.fetchOutOfRange (s.pcPlus 1).toNat)
          | some w2 =>
            match decode s.cfg.core w w2 with
            | none => .stop (.reservedOpcode s.pc w)
            | some j => .instr w j
        else .instr w i
      else .stop (.reservedOpcode s.pc w)

/-- The word of SEI and of BSET 7, after which no interrupt is taken (R435). -/
def seiWord : Word := 0x9478

/-- The configuration on which the instruction in some bytes can be fetched: the given one where it has it, else the
extended one (log 19). -/
def configFor (c : Config) (bytes : List Byte) : Config :=
  match decodeBytes c.core bytes with
  | .instr i _ => if admits c i then c else Config.extended c
  | _ => c

/-- The state with two words placed where the next instruction is fetched, running, on a device that has it. -/
def placeWords (bytes : List Byte) (w w2 : Word) (s : State) : State :=
  { s with
    cfg := configFor s.cfg bytes
    prog := Memory.setWord (Memory.setWord s.prog s.pc.toNat w) (s.pcPlus 1).toNat w2
    run := .running }

end Sys2Proof.Machine
end

