-- ==== Sys2Proof/Machine/Step.lean ====
section
/-! DEFINITION. One step of the machine (60_exceptions.md R447), and the placing of an instruction where the next step
fetches it. -/

namespace Sys2Proof.Machine

open Sys2Proof

/-- The end of a step: the check of R435 on the state an instruction left. -/
def finish (wasSei : Bool) (o : Host.Outcome State Fault Refusal) : Host.Outcome State Fault Refusal :=
  match o with
  | .next t => (boundary wasSei t).outcome
  | .fault f => .fault f
  | .refused r => .refused r

/-- `Step` (R447). Faulted is terminal and answers its fault again; Stopped is refused by name (log 15). -/
def step (s : State) : Host.Outcome State Fault Refusal :=
  match s.run with
  | .faulted f => .fault (raise f s)
  | .stopped => .refused .stoppedMode
  | .sleeping => (boundary false s).outcome
  | .running =>
    match fetch s with
    | .stop f => .fault (raise f s)
    | .instr w i => finish (decide (w = seiWord)) (exec i s)

/-- The state with the instruction of a table word stored where `step` fetches its next instruction (log 19). -/
def State.withFetchWord (s : State) (nbits w : Nat) : State :=
  placeWords (tableBytes nbits w) (BitVec.ofNat 16 (w % 2 ^ nbits)) (BitVec.ofNat 16 (w % 2 ^ nbits / 65536)) s

end Sys2Proof.Machine
end

