-- ==== Sys2Proof/Safety.lean ====
section
/-! DEFINITION. The words the statements are written in: the invariant of the machine, what an instruction leaves alone,
and the flag formulas, addresses and accesses of the spec in its own form. -/

namespace Sys2Proof.Machine

open Sys2Proof

/-! ### The invariant -/

/-- Every listed program byte belongs to a word up to FLASHEND (20_memory.md R61). -/
def progInRange (s : State) : Bool := s.prog.all fun c => decide (c.1 / 2 ≤ s.cfg.flashEnd)

/-- What every step keeps: the memories in canonical form, program memory within FLASHEND, SRAM bytes only where the data
map has SRAM (R66), PC and FLASHEND below 2^PC_BITS (R4, R25), a register the device does not have still at its reset
value (R29 to R32), and no fault pending (R431). -/
structure Inv (s : State) : Prop where
  prog : Memory.wf s.prog = true
  sram : Memory.wf s.sram = true
  bytes : Memory.wf s.dev.bytes = true
  page : Memory.wf s.dev.pageBuffer = true
  flash : progInRange s = true
  mapped : ∀ c ∈ s.sram, ∃ a, place s.cfg a = .sram c.1
  pc : s.pc.toNat < 2 ^ pcBits s.cfg.pcWidth
  flashEnd : s.cfg.flashEnd < 2 ^ pcBits s.cfg.pcWidth
  absent : ∀ r, cpuRegExists s.cfg r = false → s.cpuReg r = 0
  noFault : ∀ f, s.run ≠ .faulted f

/-! ### Frames -/

/-- `pc <- PC + n` (10_state.md R25). -/
def PcPlus (s t : State) (n : Int) : Prop := (t.pc.toNat : Int) = (s.pc.toNat + n) % 2 ^ pcBits s.cfg.pcWidth

/-- Every byte of SRAM, program memory and the device reads as before. -/
def MemoryKept (s t : State) : Prop :=
  (∀ a, t.sramByte a = s.sramByte a) ∧ (∀ a, t.progByte a = s.progByte a) ∧ ∀ loc, t.deviceByte loc = s.deviceByte loc

/-- Only the named registers, SREG and the PC may have changed. -/
structure OnlyRegisters (s t : State) (changed : List RegIx) : Prop where
  regs : ∀ i, i ∉ changed → t.reg i = s.reg i
  memory : MemoryKept s t
  rest : t = { s with regs := t.regs, sreg := t.sreg, pc := t.pc }

/-- Only SREG and the PC may have changed. -/
structure OnlySreg (s t : State) : Prop where
  regs : ∀ i, t.reg i = s.reg i
  memory : MemoryKept s t
  rest : t = { s with sreg := t.sreg, pc := t.pc }

/-- Only the PC may have changed. -/
structure OnlyPc (s t : State) : Prop where
  regs : ∀ i, t.reg i = s.reg i
  sreg : t.sreg = s.sreg
  memory : MemoryKept s t
  rest : t = { s with pc := t.pc }

/-- Every flag outside the list is unchanged. -/
def FlagsKept (fs : List BitIx) (old new : Byte) : Prop := ∀ f, f ∉ fs → getBit new f = getBit old f

/-! ### Flag formulas (40_arithmetic_logic.md) -/

/-- ¬R7•¬R6•¬R5•¬R4•¬R3•¬R2•¬R1•¬R0. -/
def allClear (v : Byte) : Bool :=
  !getBit v 7 && !getBit v 6 && !getBit v 5 && !getBit v 4 && !getBit v 3 && !getBit v 2 && !getBit v 1 && !getBit v 0

/-- `AddFlags` as R140 prints it: the result, each flag by its Boolean formula and by its arithmetic reading. -/
structure AddRule (a b : Byte) (cin : Bool) (res old new : Byte) : Prop where
  result : res.toNat = (a.toNat + b.toNat + cin.toNat) % 256
  half : getBit new flagH =
    ((getBit a 3 && getBit b 3) || (getBit b 3 && !getBit res 3) || (!getBit res 3 && getBit a 3))
  halfCarry : getBit new flagH = decide (16 ≤ a.toNat % 16 + b.toNat % 16 + cin.toNat)
  overflow : getBit new flagV =
    ((getBit a 7 && getBit b 7 && !getBit res 7) || (!getBit a 7 && !getBit b 7 && getBit res 7))
  outside : getBit new flagV = decide (a.toInt + b.toInt + cin.toNat < -128 ∨ 127 < a.toInt + b.toInt + cin.toNat)
  negative : getBit new flagN = getBit res 7
  zero : getBit new flagZ = allClear res
  isZero : getBit new flagZ = decide (res = 0)
  carry : getBit new flagC =
    ((getBit a 7 && getBit b 7) || (getBit b 7 && !getBit res 7) || (!getBit res 7 && getBit a 7))
  carryOut : getBit new flagC = decide (256 ≤ a.toNat + b.toNat + cin.toNat)
  sign : getBit new flagS = (getBit new flagN ^^ getBit new flagV)
  kept : FlagsKept [flagH, flagS, flagV, flagN, flagZ, flagC] old new

/-- `SubFlags` as R141 prints it. -/
structure SubRule (a b : Byte) (cin keepZ : Bool) (res old new : Byte) : Prop where
  result : (res.toNat : Int) = ((a.toNat : Int) - b.toNat - cin.toNat) % 256
  half : getBit new flagH =
    ((!getBit a 3 && getBit b 3) || (getBit b 3 && getBit res 3) || (getBit res 3 && !getBit a 3))
  halfBorrow : getBit new flagH = decide (a.toNat % 16 < b.toNat % 16 + cin.toNat)
  overflow : getBit new flagV =
    ((getBit a 7 && !getBit b 7 && !getBit res 7) || (!getBit a 7 && getBit b 7 && getBit res 7))
  outside : getBit new flagV = decide (a.toInt - b.toInt - cin.toNat < -128 ∨ 127 < a.toInt - b.toInt - cin.toNat)
  negative : getBit new flagN = getBit res 7
  zero : keepZ = false → getBit new flagZ = decide (res = 0)
  zeroKept : keepZ = true → getBit new flagZ = (allClear res && getBit old flagZ)
  carry : getBit new flagC =
    ((!getBit a 7 && getBit b 7) || (getBit b 7 && getBit res 7) || (getBit res 7 && !getBit a 7))
  borrow : getBit new flagC = decide (a.toNat < b.toNat + cin.toNat)
  sign : getBit new flagS = (getBit new flagN ^^ getBit new flagV)
  kept : FlagsKept [flagH, flagS, flagV, flagN, flagZ, flagC] old new

/-- `LogicFlags` (R142). -/
structure LogicRule (res old new : Byte) : Prop where
  overflow : getBit new flagV = false
  negative : getBit new flagN = getBit res 7
  zero : getBit new flagZ = decide (res = 0)
  sign : getBit new flagS = (getBit new flagN ^^ getBit new flagV)
  equalsN : getBit new flagS = getBit new flagN
  kept : FlagsKept [flagS, flagV, flagN, flagZ] old new

/-- The flags of a shift or rotate (44_bit_and_bit_test.md R360 to R364) but H: C the bit shifted out. -/
structure ShiftRule (out : Bool) (res new : Byte) : Prop where
  carry : getBit new flagC = out
  negative : getBit new flagN = getBit res 7
  zero : getBit new flagZ = decide (res = 0)
  overflow : getBit new flagV = (getBit new flagN ^^ getBit new flagC)
  sign : getBit new flagS = (getBit new flagN ^^ getBit new flagV)

/-- The product of a multiply (R165 to R170): `P` exact, shifted left by `shift`, in R1:R0, with C = P15 and Z. -/
structure ProductRule (P : Int) (shift : Nat) (s t : State) : Prop where
  result : (((t.reg 1).toNat * 256 + (t.reg 0).toNat : Nat) : Int) = P * 2 ^ shift % 65536
  carry : t.flag flagC = decide (32768 ≤ P % 65536)
  zero : t.flag flagZ = decide (t.reg 1 = 0 ∧ t.reg 0 = 0)
  kept : FlagsKept [flagC, flagZ] s.sreg t.sreg
  frame : OnlyRegisters s t [0, 1]
  next : PcPlus s t 1

/-- The flags of ADIW and SBIW (R145, R150) but V and C, from the 16-bit result. -/
structure WordFlags (res : Nat) (old new : Byte) : Prop where
  negative : getBit new flagN = decide (32768 ≤ res)
  zero : getBit new flagZ = decide (res = 0)
  sign : getBit new flagS = (getBit new flagN ^^ getBit new flagV)
  kept : FlagsKept [flagS, flagV, flagN, flagZ, flagC] old new

/-! ### Pointers (42_data_transfer_load_store.md R260) -/

/-- `2 ^ DATA_BITS`. -/
def dataModulus (s : State) : Nat := 2 ^ dataBits s.cfg.dataWidth

/-- `PtrGet(P)` as a number: the low byte, the high byte and RAMP(P), as far as DATA_BITS reaches. -/
def pointer (p : Pointer) (s : State) : Nat :=
  match s.cfg.dataWidth with
  | .bits8 => (s.reg p.lo).toNat
  | .bits16 => (s.reg (p.lo + 1)).toNat * 256 + (s.reg p.lo).toNat
  | .bits24 => (s.ramp p).toNat * 65536 + (s.reg (p.lo + 1)).toNat * 256 + (s.reg p.lo).toNat

/-- `PtrSet(P, v)`: the pointer is `v`, and only the bytes it takes part with have changed. -/
structure PointerSet (p : Pointer) (v : Nat) (s t : State) : Prop where
  value : pointer p t = v
  high : s.cfg.dataWidth = .bits8 → t.reg (p.lo + 1) = s.reg (p.lo + 1)
  ramp : s.cfg.dataWidth ≠ .bits24 → t.ramp p = s.ramp p
  ramps : ∀ o, o ≠ p → t.ramp o = s.ramp o
  regs : ∀ i, i ≠ p.lo → i ≠ p.lo + 1 → t.reg i = s.reg i
  rest : t = { s with regs := t.regs, rampX := t.rampX, rampY := t.rampY, rampZ := t.rampZ }

/-- The data address of LDS and STS (R264) as a number. -/
def direct (k : Word) (s : State) : Nat :=
  match s.cfg.dataWidth with
  | .bits8 => k.toNat % 256
  | .bits16 => k.toNat
  | .bits24 => s.rampD.toNat * 65536 + k.toNat

/-! ### Accesses (20_memory.md R66) -/

/-- A data address that can be read. -/
def readable (s : State) (a : Nat) : Bool :=
  match place s.cfg a with
  | .reg _ => true
  | .io _ => true
  | .extIo _ => true
  | .sram _ => true
  | .flash b => decide (b / 2 ≤ s.cfg.flashEnd)
  | .unmapped => false

/-- A data address that can be written. -/
def writable (s : State) (a : Nat) : Bool :=
  match place s.cfg a with
  | .reg _ => true
  | .io _ => true
  | .extIo _ => true
  | .sram _ => true
  | .flash _ => false
  | .unmapped => false

/-- A read of a data address: the byte, and the state after it, the same but where the device is read. -/
def Reads (a : Nat) (s : State) (v : Byte) (u : State) : Prop :=
  match place s.cfg a with
  | .reg n => v = s.reg n ∧ u = s
  | .io A => v = (ioRead A s).1 ∧ u = (ioRead A s).2
  | .extIo e => v = (devRead (.ext e) s).1 ∧ u = (devRead (.ext e) s).2
  | .sram b => v = s.sramByte b ∧ u = s
  | .flash b => v = s.progByte b ∧ u = s
  | .unmapped => False

/-- A write of a data address: exactly the place it names changes. -/
def Writes (a : Nat) (v : Byte) (s u : State) : Prop :=
  match place s.cfg a with
  | .reg n => u.reg n = v ∧ (∀ i, i ≠ n → u.reg i = s.reg i) ∧ u = { s with regs := u.regs }
  | .io A => u = ioWrite A v s
  | .extIo e => u = devWrite (.ext e) v s
  | .sram b => u.sramByte b = v ∧ (∀ x, x ≠ b → u.sramByte x = s.sramByte x) ∧ u = { s with sram := u.sram }
  | .flash _ => False
  | .unmapped => False

/-- The state is `u` with the PC moved. -/
def Moves (s u t : State) (n : Int) : Prop := t = { u with pc := t.pc } ∧ PcPlus s t n

/-- The state is `u` with one register written and the PC moved. -/
structure Loads (d : RegIx) (v : Byte) (s u t : State) (n : Int) : Prop where
  value : t.reg d = v
  regs : ∀ i, i ≠ d → t.reg i = u.reg i
  rest : t = { u with regs := t.regs, pc := t.pc }
  next : PcPlus s t n

/-- The fault of an access that cannot be made (60_exceptions.md R431). -/
def accessFault (s : State) (a : Nat) : FaultInfo :=
  match place s.cfg a with
  | .flash b => if s.cfg.flashEnd < b / 2 then .fetchOutOfRange (b / 2) else .dataAccess a
  | _ => .dataAccess a

/-- One register written. -/
structure RegWritten (d : RegIx) (v : Byte) (s t : State) : Prop where
  value : t.reg d = v
  regs : ∀ i, i ≠ d → t.reg i = s.reg i
  rest : t = { s with regs := t.regs }

/-- A load through an address computed from the state (R264 to R266, R272): the byte read in Rd, or the fault of R431 in
the state before. -/
def LoadRule (mk : RegIx → Instr) (addr : State → Nat) (n : Int) : Prop :=
  ∀ d s,
    (readable s (addr s) = true →
      ∃ v u t, Reads (addr s) s v u ∧ exec (mk d) s = .next t ∧ Loads d v s u t n) ∧
    (readable s (addr s) = false → exec (mk d) s = .fault (raise (accessFault s (addr s)) s))

/-- A store through an address computed from the state (R277 to R279, R285). -/
def StoreRule (mk : RegIx → Instr) (addr : State → Nat) (n : Int) : Prop :=
  ∀ r s,
    (writable s (addr s) = true →
      ∃ u t, Writes (addr s) (s.reg r) s u ∧ exec (mk r) s = .next t ∧ Moves s u t n) ∧
    (writable s (addr s) = false → exec (mk r) s = .fault (raise (.dataAccess (addr s)) s))

/-- A post-increment load (R267): the access at the pointer, then the pointer one on; a fault leaves the pointer. -/
def LoadIncRule (mk : RegIx → Instr) (p : Pointer) : Prop :=
  ∀ d s, d ≠ p.lo → d ≠ p.lo + 1 →
    (readable s (pointer p s) = true →
      ∃ v u w x t, Reads (pointer p s) s v u ∧ RegWritten d v u w ∧
        PointerSet p ((pointer p s + 1) % dataModulus s) w x ∧ exec (mk d) s = .next t ∧ Moves s x t 1) ∧
    (readable s (pointer p s) = false → exec (mk d) s = .fault (raise (accessFault s (pointer p s)) s))

/-- The address of a pre-decrement. -/
def decremented (p : Pointer) (s : State) : Nat := (pointer p s + dataModulus s - 1) % dataModulus s

/-- A pre-decrement load (R268): the pointer one back, then the access; a fault leaves the pointer decremented. -/
def LoadDecRule (mk : RegIx → Instr) (p : Pointer) : Prop :=
  ∀ d s, d ≠ p.lo → d ≠ p.lo + 1 →
    ∃ x, PointerSet p (decremented p s) s x ∧
      (readable s (decremented p s) = true →
        ∃ v u t, Reads (decremented p s) x v u ∧ exec (mk d) s = .next t ∧ Loads d v s u t 1) ∧
      (readable s (decremented p s) = false → exec (mk d) s = .fault (raise (accessFault s (decremented p s)) x))

/-- A post-increment store (R280). -/
def StoreIncRule (mk : RegIx → Instr) (p : Pointer) : Prop :=
  ∀ r s, r ≠ p.lo → r ≠ p.lo + 1 →
    (writable s (pointer p s) = true →
      ∃ u x t, Writes (pointer p s) (s.reg r) s u ∧ PointerSet p ((pointer p s + 1) % dataModulus s) u x ∧
        exec (mk r) s = .next t ∧ Moves s x t 1) ∧
    (writable s (pointer p s) = false → exec (mk r) s = .fault (raise (.dataAccess (pointer p s)) s))

/-- A pre-decrement store (R281). -/
def StoreDecRule (mk : RegIx → Instr) (p : Pointer) : Prop :=
  ∀ r s, r ≠ p.lo → r ≠ p.lo + 1 →
    ∃ x, PointerSet p (decremented p s) s x ∧
      (writable s (decremented p s) = true →
        ∃ u t, Writes (decremented p s) (s.reg r) x u ∧ exec (mk r) s = .next t ∧ Moves s u t 1) ∧
      (writable s (decremented p s) = false → exec (mk r) s = .fault (raise (.dataAccess (decremented p s)) x))

/-- XCH, LAS, LAC and LAT (43_data_transfer_progmem_io_stack.md R332 to R335): `f Rd old` written, the old byte in Rd. -/
def ExchangeRule (mk : RegIx → Instr) (f : Byte → Byte → Byte) : Prop :=
  ∀ d s,
    (writable s (pointer .z s) = true →
      ∃ old u w t, Reads (pointer .z s) s old u ∧ Writes (pointer .z s) (f (s.reg d) old) u w ∧
        exec (mk d) s = .next t ∧ Loads d old s w t 1) ∧
    (writable s (pointer .z s) = false → exec (mk d) s = .fault (raise (accessFault s (pointer .z s)) s))

/-! ### Stack (R74, R75) -/

/-- Bytes of a return address: 2, or 3 with a 22-bit PC. -/
def pcBytes (c : Config) : Nat := if longPc c then 3 else 2

/-- SP after `k` pushes. -/
def spDown (s : State) (k : Nat) : Word := if k = 0 then s.sp else wrapSp s.cfg (s.sp - BitVec.ofNat 16 k)

/-- SP after `k` pops. -/
def spUp (s : State) (k : Nat) : Word := if k = 0 then s.sp else wrapSp s.cfg (s.sp + BitVec.ofNat 16 k)

/-- The next `n` bytes to be pushed are the different SRAM bytes `b 0`, `b 1`, ... -/
def PushBytes (s : State) (n : Nat) (b : Nat → Nat) : Prop :=
  (∀ k, k < n → place s.cfg (spDown s k).toNat = .sram (b k)) ∧ ∀ j k, j < n → k < n → b j = b k → j = k

/-- The next `n` bytes to be popped are the SRAM bytes `b 0`, `b 1`, ... -/
def PopBytes (s : State) (n : Nat) (b : Nat → Nat) : Prop :=
  ∀ k, k < n → place s.cfg (spUp s (k + 1)).toNat = .sram (b k)

/-- A return address on the stack (R74): low byte first at the highest address, nothing else written. -/
structure PushedPc (ra : Nat) (b : Nat → Nat) (s u : State) : Prop where
  low : (u.sramByte (b 0)).toNat = ra % 256
  high : (u.sramByte (b 1)).toNat = ra / 256 % 256
  top : longPc s.cfg = true → (u.sramByte (b 2)).toNat = ra / 65536
  others : ∀ x, (∀ k, k < pcBytes s.cfg → x ≠ b k) → u.sramByte x = s.sramByte x
  sp : u.sp = spDown s (pcBytes s.cfg)
  rest : u = { s with sram := u.sram, sp := u.sp }

/-- The return address in the bytes to be popped (R75), before the reduction modulo 2^PC_BITS. -/
def poppedPc (s : State) (b : Nat → Nat) : Nat :=
  if longPc s.cfg then
    (s.sramByte (b 0)).toNat % 64 * 65536 + (s.sramByte (b 1)).toNat * 256 + (s.sramByte (b 2)).toNat
  else (s.sramByte (b 0)).toNat * 256 + (s.sramByte (b 1)).toNat

/-- A call (41_branch.md R200): with its stack bytes in SRAM the return address is there and the PC is at the target;
whatever the stack is mapped to, it is `PushPC`, whose fault is the call's. -/
def CallRule (i : Instr) (n : Nat) (target : State → Nat) : Prop :=
  ∀ s ra, ra.toNat = (s.pc.toNat + n) % 2 ^ pcBits s.cfg.pcWidth →
    (∀ b, PushBytes s (pcBytes s.cfg) b →
      ∃ u t, exec i s = .next t ∧ PushedPc ra.toNat b s u ∧ t = { u with pc := t.pc } ∧
        t.pc.toNat = target s % 2 ^ pcBits s.cfg.pcWidth) ∧
    (∀ u, pushPc ra s = .ok () u →
      ∃ t, exec i s = .next t ∧ t = { u with pc := t.pc } ∧ t.pc.toNat = target s % 2 ^ pcBits s.cfg.pcWidth) ∧
    (∀ f u, pushPc ra s = .stop f u → exec i s = .fault (raise f u))

/-! ### Skips (41_branch.md R201) -/

/-- The word address after the PC. -/
def nextWord (s : State) : Nat := (s.pc.toNat + 1) % 2 ^ pcBits s.cfg.pcWidth

/-- `Skip(cond)` from a state `u` that may differ from `s` in the device only. -/
structure SkipRule (cond : Bool) (o : Host.Outcome State Fault Refusal) (s u : State) : Prop where
  stay : cond = false → ∃ t, o = .next t ∧ Moves s u t 1
  skip : cond = true → nextWord s ≤ s.cfg.flashEnd →
    ∃ t, o = .next t ∧ Moves s u t (if isTwoWord (s.progWord (nextWord s)) then 3 else 2)
  outside : cond = true → s.cfg.flashEnd < nextWord s → o = .fault (raise (.fetchOutOfRange (nextWord s)) u)

/-- A conditional branch (R220, R221). -/
def BranchRule (mk : BitVec 7 → Instr) (cond : State → Bool) : Prop :=
  ∀ k s, ∃ t, exec (mk k) s = .next t ∧ OnlyPc s t ∧ PcPlus s t (if cond s then k.toInt + 1 else 1)

/-! ### Sequences, and the words SPM writes -/

/-- Instructions executed one after the other, up to the first that does not complete. -/
def execAll : List Instr → State → Host.Outcome State Fault Refusal
  | [], s => .next s
  | i :: is, s =>
    match exec i s with
    | .next t => execAll is t
    | .fault f => .fault f
    | .refused r => .refused r

/-- DES 0 to DES 15 (40_arithmetic_logic.md R171). -/
def desSixteen : List Instr := (List.range 16).map fun K => .des (BitVec.ofNat 4 K)

/-- The last word a list of writes puts at a word address. -/
def lastWord : List (Nat × Word) → Nat → Option Word
  | [], _ => none
  | p :: ws, w =>
    match lastWord ws w with
    | some v => some v
    | none => if p.1 = w then some p.2 else none

/-! ### Which instruction may write what -/

/-- Instructions that write a data or I/O location, which may be a CPU register (10_state.md R27, R28). -/
def writesData (i : Instr) : Bool :=
  match i.canonical with
  | .rcall _ | .icall | .eicall | .call _ | .sts _ _ | .sts16 _ _ | .stX _ | .stXInc _ | .stXDec _ | .stYInc _ | .stYDec _
  | .stdY _ _ | .stZInc _ | .stZDec _ | .stdZ _ _ | .out _ _ | .push _ | .xch _ | .las _ | .lac _ | .lat _ | .sbi _ _
  | .cbi _ _ => true
  | _ => false

/-- The flags an instruction writes (the first table of 10_state.md R27). -/
def flagsWritten (i : Instr) : List BitIx :=
  match i.canonical with
  | .add _ _ | .adc _ _ | .sub _ _ | .subi _ _ | .sbc _ _ | .sbci _ _ | .cp _ _ | .cpc _ _ | .cpi _ _ | .neg _ =>
    [flagH, flagS, flagV, flagN, flagZ, flagC]
  | .adiw _ _ | .sbiw _ _ | .com _ | .lsr _ | .ror _ | .asr _ => [flagS, flagV, flagN, flagZ, flagC]
  | .and _ _ | .andi _ _ | .or _ _ | .ori _ _ | .eor _ _ | .inc _ | .dec _ => [flagS, flagV, flagN, flagZ]
  | .mul _ _ | .muls _ _ | .mulsu _ _ | .fmul _ _ | .fmuls _ _ | .fmulsu _ _ => [flagZ, flagC]
  | .bst _ _ => [flagT]
  | .reti => [flagI]
  | .bset n => [n]
  | .bclr n => [n]
  | _ => []

end Sys2Proof.Machine
end

