-- ==== Sys2Proof/Certificates/Slice0/Obligations.lean ====
section
/-! DEFINITION. The statements for the provers. Most are one structure of Sys2Proof/Safety.lean per shape of instruction,
stated for every instruction of that shape. -/

open Sys2Proof Sys2Proof.Machine

/-- O1. Decoding an encoded instruction gives it back (its canonical form), for all 144 constructors. For every core
variant, every instruction i that is well formed and encodable on that core, and every list of bytes after it, the
decoder reads from the bytes of i the canonical form of i and leaves exactly those bytes. -/
def Obligations.DecodeEncode : Prop :=
  ∀ (core : Core) (i : Instr) (rest : List Byte), i.wellFormed = true → i.encodableOn core = true →
    decodeBytes core (encodeBytes i ++ rest) = .instr i.canonical rest

/-- O2. Every word the decoder accepts is the encoding of what it reads. If the decoder reads i from the words w, w2,
then i is well formed, encodable on the core and canonical, and its encoding is w, or w and w2 when w is the first
word of a two-word instruction. -/
def Obligations.EncodeDecode : Prop :=
  ∀ (core : Core) (w w2 : Word) (i : Instr), decode core w w2 = some i →
    i.wellFormed = true ∧ i.encodableOn core = true ∧ i.canonical = i ∧
      encode i = if isTwoWord w then [w, w2] else [w]

/-- O3. Two words for JMP, CALL, LDS and STS (32-bit), one for every other instruction, by the first word alone. A
decoded instruction is JMP, CALL, LDS or STS (32-bit) exactly when the first word passes the two-word test, and it
then has two words; every other one has one word. -/
def Obligations.LengthByFirstWord : Prop :=
  ∀ (core : Core) (w w2 : Word) (i : Instr), decode core w w2 = some i →
    (isTwoWord w = true ↔ (∃ k, i = .jmp k) ∨ (∃ k, i = .call k) ∨ (∃ d k, i = .lds d k) ∨ (∃ k r, i = .sts k r)) ∧
      (encode i).length = if isTwoWord w then 2 else 1

/-- O4. A few words, written out from the opcodes the spec gives, decode to their instructions. The words 0C12, 9601,
940E 0400, F02E, 901D, 9220 0100, 9105, FA12 and 9588 decode to add r1,r2; adiw r24,1; call 0x0400; brbs 6,+5; ld
r1,X+; sts 0x0100,r2; lpm r16,Z+; bst r1,2; sleep; each word is the opcode of its page with the operand bits filled in
(the manual itself prints no machine words). -/
def Obligations.DecodesWrittenWords : Prop :=
  decode .avr 0b0000110000010010 0 = some (.add 1 2) ∧ decode .avr 0b1001011000000001 0 = some (.adiw 24 1) ∧
    decode .avr 0b1001010000001110 0x0400 = some (.call 0x000400) ∧
    decode .avr 0b1111000000101110 0 = some (.brbs 6 5) ∧ decode .avr 0b1001000000011101 0 = some (.ldXInc 1) ∧
    decode .avr 0b1001001000100000 0x0100 = some (.sts 0x0100 2) ∧
    decode .avr 0b1001000100000101 0 = some (.lpmZInc 16) ∧ decode .avr 0b1111101000010010 0 = some (.bst 1 2) ∧
    decode .avr 0b1001010110001000 0 = some .sleep

/-- O5. I/O addresses and bit numbers are read from their bits of the word. IN and OUT carry A in w[10:9] : w[3:0];
SBI, CBI, SBIC and SBIS carry A in w[7:3] and b in w[2:0]; BST, BLD, SBRC and SBRS carry b in w[2:0]; BSET and BCLR
carry s in w[6:4]; BRBS and BRBC carry s in w[2:0]; the bit selected in a register, in an I/O byte or in SREG is that
one: the SREG bit set by the BSET word, cleared by the BCLR word, tested by the BRBS and BRBC words; the register bit
copied by the BST word, written by the BLD word, tested by the SBRC and SBRS words; the I/O bit tested by the SBIC and
SBIS words and, read back on a CPU register or the reference device, set by the SBI word and cleared by the CBI word,
or given to the hook of an external device. (Beside R108 this rests on: the look-ahead of a skip with its fault and
its wrap, the spec's decisions D3 and D22, log 13; the whole-byte read and write of SBI and CBI, D31, log 28; the
hooks of an external device, log 9.) -/
def Obligations.OperandFields : Prop :=
  ∀ (core : Core) (w w2 : Word) (i : Instr), decode core w w2 = some i →
    (∀ d A, i = .inp d A ∨ i = .out A d → A = w.extractLsb' 9 2 ++ w.extractLsb' 0 4) ∧
    (∀ A b, i = .sbi A b ∨ i = .cbi A b ∨ i = .sbic A b ∨ i = .sbis A b →
      A = w.extractLsb' 3 5 ∧ b.val = (w.extractLsb' 0 3).toNat) ∧
    (∀ d b, i = .bst d b ∨ i = .bld d b ∨ i = .sbrc d b ∨ i = .sbrs d b → b.val = (w.extractLsb' 0 3).toNat) ∧
    (∀ n, i = .bset n ∨ i = .bclr n → n.val = (w.extractLsb' 4 3).toNat) ∧
    (∀ n k, i = .brbs n k ∨ i = .brbc n k → n.val = (w.extractLsb' 0 3).toNat) ∧
    (∀ (s : State) (n : BitIx), i = .bset n → ∃ t, exec i s = .next t ∧
      t.sreg.getLsbD (w.extractLsb' 4 3).toNat = true) ∧
    (∀ (s : State) (n : BitIx) (k : BitVec 7), i = .brbs n k → ∃ t, exec i s = .next t ∧
      PcPlus s t (if s.sreg.getLsbD (w.extractLsb' 0 3).toNat then k.toInt + 1 else 1)) ∧
    (∀ (s : State) (d : RegIx) (b : BitIx), i = .bst d b → ∃ t, exec i s = .next t ∧
      t.flag flagT = (s.reg d).getLsbD (w.extractLsb' 0 3).toNat) ∧
    (∀ (s : State) (A : BitVec 5) (b : BitIx), i = .sbis A b →
      SkipRule ((ioRead ((w.extractLsb' 3 5).setWidth 6) s).1.getLsbD (w.extractLsb' 0 3).toNat) (exec i s) s
        (ioRead ((w.extractLsb' 3 5).setWidth 6) s).2) ∧
    (∀ (s : State) (n : BitIx), i = .bclr n → ∃ t, exec i s = .next t ∧
      t.sreg.getLsbD (w.extractLsb' 4 3).toNat = false) ∧
    (∀ (s : State) (n : BitIx) (k : BitVec 7), i = .brbc n k → ∃ t, exec i s = .next t ∧
      PcPlus s t (if s.sreg.getLsbD (w.extractLsb' 0 3).toNat then 1 else k.toInt + 1)) ∧
    (∀ (s : State) (d : RegIx) (b : BitIx), i = .bld d b → ∃ t, exec i s = .next t ∧
      (t.reg d).getLsbD (w.extractLsb' 0 3).toNat = s.flag flagT) ∧
    (∀ (s : State) (r : RegIx) (b : BitIx), i = .sbrc r b →
      SkipRule (!(s.reg r).getLsbD (w.extractLsb' 0 3).toNat) (exec i s) s s) ∧
    (∀ (s : State) (r : RegIx) (b : BitIx), i = .sbrs r b →
      SkipRule ((s.reg r).getLsbD (w.extractLsb' 0 3).toNat) (exec i s) s s) ∧
    (∀ (s : State) (A : BitVec 5) (b : BitIx), i = .sbic A b →
      SkipRule (!(ioRead ((w.extractLsb' 3 5).setWidth 6) s).1.getLsbD (w.extractLsb' 0 3).toNat) (exec i s) s
        (ioRead ((w.extractLsb' 3 5).setWidth 6) s).2) ∧
    (∀ (s : State) (A : BitVec 5) (b : BitIx) (v : Bool), i = (if v then .sbi A b else .cbi A b) →
      ∃ t, exec i s = .next t ∧
        (s.cfg.device = .reference ∨ (∃ r, cpuRegAt s.cfg ((w.extractLsb' 3 5).setWidth 6) = some r) →
          (ioRead ((w.extractLsb' 3 5).setWidth 6) t).1.getLsbD (w.extractLsb' 0 3).toNat = v) ∧
        (∀ c : BitIx, c.val = (w.extractLsb' 0 3).toNat → s.cfg.device = .external →
          cpuRegAt s.cfg ((w.extractLsb' 3 5).setWidth 6) = none →
          t.dev.hidden = if v then Config.deviceSetBit (w.extractLsb' 3 5) c s.dev.hidden
            else Config.deviceClrBit (w.extractLsb' 3 5) c s.dev.hidden))

/-- O6. Each of the 45 alias pages means what its canonical instruction means. On every state the meaning of an
instruction is the meaning of its canonical form: LSL is ADD Rd,Rd, ROL is ADC Rd,Rd, TST is AND Rd,Rd, CLR is EOR
Rd,Rd, CBR is ANDI with the complement, SEI is BSET 7, LD Rd,Y is LDD Rd,Y+0 and so on. -/
def Obligations.AliasMeansCanonical : Prop :=
  ∀ (i : Instr) (s : State), exec i s = exec i.canonical s

/-- O7. A step of a running core executes the instruction at the PC, then makes the interrupt check. If the core is
running, the PC is within FLASHEND, the words there decode to an instruction the device has (its second word within
FLASHEND where it has one), then step is the meaning of that instruction followed, on a next state, by the check of
R435, told whether the word was SEI's. (The check after every instruction and the test for the SEI word are the spec's
decision D13, log 21; that availability is checked in step and not in exec is log 16; that the second word stands at
PC + 1 modulo 2^PC_BITS is log 13.) -/
def Obligations.StepRunsDecoded : Prop :=
  ∀ (s : State) (i : Instr), s.run = .running → s.pc.toNat ≤ s.cfg.flashEnd →
    decode s.cfg.core (s.progWord s.pc.toNat) (s.progWord (s.pcPlus 1).toNat) = some i → admits s.cfg i = true →
    (isTwoWord (s.progWord s.pc.toNat) = true → (s.pcPlus 1).toNat ≤ s.cfg.flashEnd) →
    step s = match exec i s with
      | .next t => (boundary (decide (s.progWord s.pc.toNat = 0x9478)) t).outcome
      | .fault f => .fault f
      | .refused r => .refused r

/-- O8. The checks before an instruction, in their order, and the fault of each. Of a running core: a PC above
FLASHEND is FetchOutOfRange; a word that decodes to nothing or to an instruction the device does not have is
ReservedOpcode; a two-word instruction whose second word is above FLASHEND is FetchOutOfRange. The fault leaves the
state unchanged but for the run state. (The faults are the spec's decisions D3, D4, D5; log 14.) -/
def Obligations.FetchChecks : Prop :=
  ∀ s : State, s.run = .running →
    (s.cfg.flashEnd < s.pc.toNat →
      step s = .fault (.fetchOutOfRange s.pc.toNat { s with run := .faulted (.fetchOutOfRange s.pc.toNat) })) ∧
    (s.pc.toNat ≤ s.cfg.flashEnd →
      (∀ i, decode s.cfg.core (s.progWord s.pc.toNat) 0 = some i → admits s.cfg i = false) →
      step s = .fault (.reservedOpcode s.pc (s.progWord s.pc.toNat)
        { s with run := .faulted (.reservedOpcode s.pc (s.progWord s.pc.toNat)) })) ∧
    (∀ i, s.pc.toNat ≤ s.cfg.flashEnd → decode s.cfg.core (s.progWord s.pc.toNat) 0 = some i →
      admits s.cfg i = true → isTwoWord (s.progWord s.pc.toNat) = true → s.cfg.flashEnd < nextWord s →
      step s = .fault (.fetchOutOfRange (nextWord s) { s with run := .faulted (.fetchOutOfRange (nextWord s)) }))

/-- O9. Every step keeps the invariant of the machine. From every state with Inv, if step answers a next state, that
state has Inv: memories canonical, program memory within FLASHEND, SRAM bytes only where the data map has SRAM, PC
below 2^PC_BITS, registers the device lacks at their reset value, no fault pending. -/
def Obligations.StepKeepsInvariant : Prop :=
  ∀ s t : State, Inv s → step s = .next t → Inv t

/-- O10. The state after reset has the invariant. Inv holds of State.reset. -/
def Obligations.ResetHasInvariant : Prop :=
  Inv State.reset

/-- O11. The reset values, at the start and in a reset during the run (the spec marks them as its decisions or general
knowledge; logs 2, 7, 8). After reset PC is Cfg.RESET_PC = 0, SREG is 0x00, SP is Cfg.SP_RESET = RAMEND, the RAMP
registers and EIND are 0x00, the core is Running, IrqInhibit is 0 and SRAM holds nothing written. The zero of R0 to
R31 is this model's choice (log 3) and not stated. A reset that the device asks for during the run sets the same
values (PC and SP reduced to their widths), empties SRAM and the device's bytes, and keeps program memory and
configuration. -/
def Obligations.ResetValues : Prop :=
  (State.reset.pc = State.reset.cfg.resetPc ∧ State.reset.pc = 0 ∧ State.reset.sreg = 0x00 ∧
    State.reset.sp = State.reset.cfg.spReset ∧ State.reset.sp.toNat = State.reset.cfg.ramEnd ∧
    State.reset.rampX = 0x00 ∧ State.reset.rampY = 0x00 ∧ State.reset.rampZ = 0x00 ∧ State.reset.rampD = 0x00 ∧
    State.reset.eind = 0x00 ∧ State.reset.run = .running ∧ State.reset.irqInhibit = false ∧ State.reset.sram = []) ∧
  ∀ s : State,
    (applyReset s).pc.toNat = s.cfg.resetPc.toNat % 2 ^ pcBits s.cfg.pcWidth ∧ (applyReset s).sreg = 0x00 ∧
      (applyReset s).sp = wrapSp s.cfg s.cfg.spReset ∧ (applyReset s).rampX = 0x00 ∧ (applyReset s).rampY = 0x00 ∧
      (applyReset s).rampZ = 0x00 ∧ (applyReset s).rampD = 0x00 ∧ (applyReset s).eind = 0x00 ∧
      (applyReset s).run = .running ∧ (applyReset s).irqInhibit = false ∧ (applyReset s).sram = [] ∧
      (applyReset s).dev.bytes = [] ∧ (applyReset s).prog = s.prog ∧ (applyReset s).cfg = s.cfg

/-- O12. Program memory changes only through SPM. No instruction but SPM and SPM Z+ changes program memory, and on a
device without SpmOp no step does. (The spec's decision D19; log 11.) -/
def Obligations.ProgramMemoryOnlyBySpm : Prop :=
  (∀ (i : Instr) (s t : State), exec i s = .next t → i ≠ .spm → i ≠ .spmZInc → t.prog = s.prog) ∧
    ∀ s t : State, s.cfg.spmOp = none → step s = .next t → t.prog = s.prog

/-- O13. Who may change the run state and IrqInhibit; no one Cfg; the reference device's requests only SPM and SPM Z+
with the parameter function of log 11. For every instruction that answers a next state: the configuration and the
reset count are unchanged; the run state is unchanged unless it is SLEEP or BREAK; IrqInhibit is unchanged unless it
is SEI or BSET 7; the list of requests, the sleep condition and the reset request that State keeps for the reference
device are unchanged, unless it is SPM or SPM Z+ on a device whose SpmOp is the parameter function; the page buffer
and the lock bits are unchanged unless it is SPM or SPM Z+. Of an external device, whose requests are a function of
its private state, nothing is said. (IrqInhibit is the spec's decision D13, log 21; the request, page buffer and lock
bit fields are logs 6 and 11, the reset count log 7.) -/
def Obligations.ControlStateFrame : Prop :=
  ∀ (i : Instr) (s t : State), exec i s = .next t →
    t.cfg = s.cfg ∧ t.resets = s.resets ∧ (i ≠ .sleep → i ≠ .brk → t.run = s.run) ∧
      (i ≠ .sei → i ≠ .bset 7 → t.irqInhibit = s.irqInhibit) ∧
      ((∀ size, s.cfg.spmOp ≠ some (.function size)) ∨ (i ≠ .spm ∧ i ≠ .spmZInc) → t.dev.requests = s.dev.requests ∧
        t.dev.sleepEnabled = s.dev.sleepEnabled ∧ t.dev.resetRequested = s.dev.resetRequested) ∧
      (i ≠ .spm → i ≠ .spmZInc → t.dev.pageBuffer = s.dev.pageBuffer ∧ t.dev.lockBits = s.dev.lockBits)

/-- O14. An instruction writes no flag outside its row of the flag table. For every instruction that writes no data or
I/O location, every flag that the first table of R27 does not name for it keeps its value. -/
def Obligations.FlagFrame : Prop :=
  ∀ (i : Instr) (s t : State), exec i s = .next t → writesData i = false → FlagsKept (flagsWritten i) s.sreg t.sreg

/-- O15. After the SEI word no interrupt is taken before the next instruction; after CLI none at all. A running core
at the word 9478 (a device that has BSET and asks for no reset): the step advances the PC by one with I = 1 and
IrqInhibit = 1, and SP and SRAM are as before, whatever is pending. At the word 94F8: the same with I = 0 and
IrqInhibit = 0. (The delay and the masking are the manual's; the boundary check is the spec's decision D13; log 21.)
-/
def Obligations.SeiDelaysInterrupts : Prop :=
  ∀ s : State, s.run = .running → s.pc.toNat ≤ s.cfg.flashEnd → devResetRequested (devTick s) = false →
    (s.progWord s.pc.toNat = 0x9478 → admits s.cfg (.bset 7) = true →
      ∃ t, step s = .next t ∧ t.irqInhibit = true ∧ t.flag flagI = true ∧ FlagsKept [flagI] s.sreg t.sreg ∧
        PcPlus s t 1 ∧ t.sp = s.sp ∧ t.sram = s.sram ∧ t.regs = s.regs ∧ t.run = .running) ∧
    (s.progWord s.pc.toNat = 0x94F8 → admits s.cfg (.bclr 7) = true →
      ∃ t, step s = .next t ∧ t.irqInhibit = false ∧ t.flag flagI = false ∧ FlagsKept [flagI] s.sreg t.sreg ∧
        PcPlus s t 1 ∧ t.sp = s.sp ∧ t.sram = s.sram ∧ t.regs = s.regs ∧ t.run = .running)

/-- O16. IrqInhibit is 1 after a step only when the instruction just completed is the SEI word. If a step answers a
state with IrqInhibit = 1, the core was running and the word at its PC was 9478. (The spec's model of the delay,
decision D13; log 21.) -/
def Obligations.InhibitOnlyAfterSei : Prop :=
  ∀ s t : State, step s = .next t → t.irqInhibit = true → s.run = .running ∧ s.progWord s.pc.toNat = 0x9478

/-- O17. The check at an instruction boundary: tick, reset, inhibit, acceptance. After the device's tick: a requested
reset is applied; else IrqInhibit is cleared unless the instruction was SEI, and with the core running or sleeping, I
= 1, no inhibit and a request pending the interrupt is entered; in every other case nothing happens. (The spec's
decision D13; log 21.) -/
def Obligations.InterruptAcceptance : Prop :=
  ∀ (wasSei : Bool) (s : State),
    (devResetRequested (devTick s) = true → boundary wasSei s = .ok () (applyReset (devTick s))) ∧
    (devResetRequested (devTick s) = false →
      ∃ u, u = { devTick s with irqInhibit := wasSei && s.irqInhibit } ∧
        (∀ r, devIrq u = some r → (s.run = .running ∨ s.run = .sleeping) → s.flag flagI = true →
          (wasSei = true → s.irqInhibit = false) → boundary wasSei s = interruptEntry r u) ∧
        (s.run = .stopped ∨ s.flag flagI = false ∨ devIrq u = none ∨ (wasSei = true ∧ s.irqInhibit = true) →
          boundary wasSei s = .ok () u))

/-- O18. Faulted and Stopped are terminal, a sleeping core makes the boundary check alone, and with I = 0 it sleeps
on. A step in Stopped Mode is refused by name, and a step of a faulted core answers its fault again: neither executes
anything. A step of a sleeping core is the check of R435, so that a requested reset is applied and an accepted
interrupt entered and the core woken, as InterruptAcceptance and InterruptEntry say. If the core is sleeping, I = 0
and the device asks for no reset, the step is the device's tick alone, with every register, PC and SREG unchanged; if
a request it offers is accepted and its entry goes through, the step answers the state after the entry, running. (The
spec's decisions D4, D13, D16, D17; logs 14, 15, 21.) -/
def Obligations.NotRunningSteps : Prop :=
  ∀ s : State, (s.run = .stopped → step s = .refused .stoppedMode) ∧
    (∀ f, s.run = .faulted f → step s = .fault (raise f s)) ∧
    (s.run = .sleeping → step s = (boundary false s).outcome) ∧
    (∀ r u t, s.run = .sleeping → s.flag flagI = true → devResetRequested (devTick s) = false →
      u = { devTick s with irqInhibit := false } → devIrq u = some r → interruptEntry r u = .ok () t →
      step s = .next t ∧ t.run = .running) ∧
    (s.run = .sleeping → devResetRequested (devTick s) = true → step s = .next (applyReset (devTick s))) ∧
    (s.run = .sleeping → s.flag flagI = false → devResetRequested (devTick s) = false →
      ∃ t, step s = .next t ∧ t = { devTick s with irqInhibit := false } ∧ t.run = .sleeping ∧ t.regs = s.regs ∧
        t.pc = s.pc ∧ t.sreg = s.sreg ∧ t.sp = s.sp ∧ t.sram = s.sram ∧ t.prog = s.prog)

/-- O19. Interrupt entry: return address pushed, I cleared, Running, PC at the vector. With the stack bytes in SRAM
the entry pushes the address of the next instruction, clears I and no other flag, acknowledges the request, runs on at
the vector modulo 2^PC_BITS, and changes no general register and no memory but the 2 or 3 stack bytes; whatever the
stack is mapped to, it is PushPC followed by that, and a fault of PushPC is its fault. (The sequence is the spec's
decision D14, its clearing of I and its layout from general knowledge; log 21.) -/
def Obligations.InterruptEntry : Prop :=
  ∀ (r : Request) (s : State),
    (∀ b, s.pc.toNat < 2 ^ pcBits s.cfg.pcWidth → PushBytes s (pcBytes s.cfg) b →
      ∃ u t, PushedPc s.pc.toNat b s u ∧ interruptEntry r s = .ok () t ∧ t.regs = s.regs ∧ t.sp = u.sp ∧
        t.sram = u.sram ∧ t.prog = s.prog ∧ t.flag flagI = false ∧ FlagsKept [flagI] s.sreg t.sreg ∧
        t.run = .running ∧ t.pc.toNat = r.vector.toNat % 2 ^ pcBits s.cfg.pcWidth ∧ t.dev = (devAck r.source s).dev ∧
        t.irqInhibit = s.irqInhibit) ∧
    (∀ u, pushPc s.pc s = .ok () u →
      ∃ t, interruptEntry r s = .ok () t ∧ t.flag flagI = false ∧ FlagsKept [flagI] u.sreg t.sreg ∧ t.run = .running ∧
        t.pc.toNat = r.vector.toNat % 2 ^ pcBits s.cfg.pcWidth ∧
        t = { devAck r.source u with pc := t.pc, sreg := t.sreg, run := t.run }) ∧
    (∀ f u, pushPc s.pc s = .stop f u → interruptEntry r s = .stop f u)

/-- O20. Where a data read and a data write go, and that nothing else changes. A data read of a readable address gives
the register, the CPU or device I/O location, the extended I/O location, the SRAM byte or the program byte that the
data map names; a data write changes exactly the place it names (every other SRAM byte reads as before) and keeps the
memory canonical. An unmapped address faults with the address, a read of mapped flash above FLASHEND with its word, a
write of mapped flash with the address, and nothing changes (the faults are the spec's decision D7; log 14). -/
def Obligations.DataAccesses : Prop :=
  ∀ (a : Nat) (v : Byte) (s : State),
    (readable s a = true → ∃ x u, memRead a s = .ok x u ∧ Reads a s x u) ∧
    (readable s a = false → memRead a s = .stop (accessFault s a) s) ∧
    (writable s a = true → ∃ u, memWrite a v s = .ok () u ∧ Writes a v s u ∧
      (Memory.wf s.sram = true → Memory.wf u.sram = true)) ∧
    (writable s a = false → memWrite a v s = .stop (.dataAccess a) s)

/-- O21. IoRead and IoWrite: the CPU's own registers at their addresses, else the device. IoRead and IoWrite of A
reach SREG at IO_SREG, else SPL at IO_SPL, else SPH at IO_SPH when SP has 16 bits, else a RAMP register or EIND that
exists at its address, else the device; a write replaces the whole byte and the CPU registers are plain storage (a
read after the write gives the value written). (That the CPU registers are plain storage at those addresses is the
spec's decision D9, D10, D24; on which devices SPH, the RAMP registers and EIND exist, and the order of trial at a
shared address, is the model's reading, log 12.) -/
def Obligations.IoRegisters : Prop :=
  (∀ (A : BitVec 6) (s : State), ioRead A s =
      if A = s.cfg.ioSreg then (s.sreg, s)
      else if A = s.cfg.ioSpl then (s.sp.extractLsb' 0 8, s)
      else if A = s.cfg.ioSph ∧ s.cfg.spWidth = .bits16 then (s.sp.extractLsb' 8 8, s)
      else if A = s.cfg.ioRampD ∧ s.cfg.dataWidth = .bits24 then (s.rampD, s)
      else if A = s.cfg.ioRampX ∧ s.cfg.dataWidth = .bits24 then (s.rampX, s)
      else if A = s.cfg.ioRampY ∧ s.cfg.dataWidth = .bits24 then (s.rampY, s)
      else if A = s.cfg.ioRampZ ∧ (s.cfg.dataWidth = .bits24 ∨ s.cfg.progGt64k = true) then (s.rampZ, s)
      else if A = s.cfg.ioEind ∧ s.cfg.pcWidth = .bits22 then (s.eind, s)
      else devRead (.io A) s) ∧
    (∀ (A : BitVec 6) (v : Byte) (s : State) (r : CpuReg), cpuRegAt s.cfg A = some r →
      (ioWrite A v s).cpuReg r = v ∧ (∀ q, q ≠ r → cpuRegExists s.cfg q = true → (ioWrite A v s).cpuReg q = s.cpuReg q) ∧
        (ioWrite A v s).regs = s.regs ∧ (ioWrite A v s).sram = s.sram ∧ (ioWrite A v s).prog = s.prog ∧
        (ioWrite A v s).dev = s.dev ∧ (ioWrite A v s).pc = s.pc ∧ (ioWrite A v s).run = s.run ∧
        (ioWrite A v s).irqInhibit = s.irqInhibit) ∧
    (∀ (A : BitVec 6) (v : Byte) (s : State), cpuRegAt s.cfg A = none → ioWrite A v s = devWrite (.io A) v s)

/-- O22. The reference device is a byte store that by itself raises no interrupt and asks for no reset. On the
reference device a read changes nothing and returns the byte last written to that location; a write changes that
location only (I/O and extended I/O locations are different bytes). It has no watchdog. With no outside input coming,
none pending and no reset requested, as after reset, its tick and an acknowledgement change nothing, it offers no
request and asks for no reset; and sleep is enabled after reset. (The list of outside inputs is the model's; the
reference device is the spec's decision D9; log 6.) -/
def Obligations.ReferenceDevice : Prop :=
  (∀ (loc : IoLoc) (v : Byte) (s : State), s.cfg.device = .reference →
    devRead loc s = (s.deviceByte loc, s) ∧ (devWrite loc v s).deviceByte loc = v ∧
      (∀ o, o ≠ loc → (devWrite loc v s).deviceByte o = s.deviceByte o) ∧
      devWrite loc v s = { s with dev := { s.dev with bytes := (devWrite loc v s).dev.bytes } } ∧ devWdr s = s) ∧
    (∀ s : State, s.cfg.device = .reference → s.dev.inputs = [] → s.dev.requests = [] → s.dev.resetRequested = false →
      devTick s = s ∧ devIrq s = none ∧ devResetRequested s = false ∧ ∀ source, devAck source s = s) ∧
    State.reset.cfg.device = .reference ∧ State.reset.dev.inputs = [] ∧ State.reset.dev.requests = [] ∧
    State.reset.dev.resetRequested = false ∧ devSleepEnabled State.reset = true

/-- O23. PushPC: 2 or 3 bytes, low byte first at the highest address. With the stack bytes different bytes of SRAM,
PushPC of an address below 2^PC_BITS succeeds, puts its low byte at SP, the next at SP - 1 and, with a 22-bit PC, the
top six bits at SP - 2, decreases SP by 2 or 3, and changes nothing else. (The byte order is the spec's decision D12,
from general knowledge; log 20.) -/
def Obligations.PushReturnAddress : Prop :=
  ∀ (ra : ProgAddr) (b : Nat → Nat) (s : State), PushBytes s (pcBytes s.cfg) b →
    ra.toNat < 2 ^ pcBits s.cfg.pcWidth → ∃ u, pushPc ra s = .ok () u ∧ PushedPc ra.toNat b s u

/-- O24. PopPC is the exact inverse of PushPC. With the stack bytes different bytes of SRAM and SP reduced, PopPC
after PushPC of an address below 2^PC_BITS returns that address and restores SP; PopPC from SRAM reads the most
significant byte first and increases SP by 2 or 3. (The spec's decision D12; log 20.) -/
def Obligations.PopInvertsPush : Prop :=
  (∀ (ra : ProgAddr) (b : Nat → Nat) (s u : State), PushBytes s (pcBytes s.cfg) b → s.sp = wrapSp s.cfg s.sp →
      ra.toNat < 2 ^ pcBits s.cfg.pcWidth → pushPc ra s = .ok () u →
      ∃ t, popPc u = .ok ra t ∧ t.sp = s.sp ∧ t.sram = u.sram ∧ t.regs = s.regs ∧ t.sreg = s.sreg) ∧
    (∀ (b : Nat → Nat) (s : State), PopBytes s (pcBytes s.cfg) b →
      ∃ ra t, popPc s = .ok ra t ∧ ra.toNat = poppedPc s b ∧ t = { s with sp := spUp s (pcBytes s.cfg) })

/-- O25. Program memory as bytes: little-endian. ProgLoad of a byte address whose word is within FLASHEND is the low
byte of that word when the address is even and the high byte when it is odd; above FLASHEND it is FetchOutOfRange with
the word address (the spec's decision D30; log 14). -/
def Obligations.ProgramBytes : Prop :=
  ∀ (a : Nat) (s : State),
    (a / 2 ≤ s.cfg.flashEnd → progLoad a s =
      .ok (if a % 2 = 0 then (s.progWord (a / 2)).extractLsb' 0 8 else (s.progWord (a / 2)).extractLsb' 8 8) s) ∧
    (s.cfg.flashEnd < a / 2 → progLoad a s = .stop (.fetchOutOfRange (a / 2)) s)

/-- O26. AddFlags: the printed Boolean formulas and their arithmetic readings. For all a, b, cin and SREG: the sum
modulo 256, and H, V, N, Z, C, S each by its printed Boolean formula and by the arithmetic condition it equals; I and
T unchanged. (The overbars of the formulas are the spec's restoration, which it marks as derived.) -/
def Obligations.AddFlagFormulas : Prop :=
  ∀ (a b : Byte) (cin : Bool) (sreg : Byte), AddRule a b cin (addBytes a b cin) sreg (addFlags sreg a b cin)

/-- O27. SubFlags: the printed Boolean formulas and their arithmetic readings, with and without the kept Z. For all a,
b, cin, keepZ and SREG: the difference modulo 256, and H, V, N, Z, C, S each by its printed Boolean formula and by the
arithmetic condition it equals; with keepZ, Z is the old Z on a zero result and 0 on another; I and T unchanged. (The
overbars of the formulas are the spec's restoration, which it marks as derived.) -/
def Obligations.SubFlagFormulas : Prop :=
  ∀ (a b : Byte) (cin keepZ : Bool) (sreg : Byte),
    SubRule a b cin keepZ (subBytes a b cin) sreg (subFlags sreg a b cin keepZ)

/-- O28. ADD and ADC. ADD and ADC complete on every state and operands: the sum (with C for ADC) in Rd, the six flags
by AddFlags, I and T unchanged, PC + 1, nothing else changed. -/
def Obligations.AddResults : Prop :=
  ∀ (d r : RegIx) (s : State),
    (∃ t, exec (.add d r) s = .next t ∧ AddRule (s.reg d) (s.reg r) false (t.reg d) s.sreg t.sreg ∧
      OnlyRegisters s t [d] ∧ PcPlus s t 1) ∧
    (∃ t, exec (.adc d r) s = .next t ∧ AddRule (s.reg d) (s.reg r) (s.flag flagC) (t.reg d) s.sreg t.sreg ∧
      OnlyRegisters s t [d] ∧ PcPlus s t 1)

/-- O29. SUB, SUBI, SBC and SBCI. SUB, SUBI, SBC and SBCI complete on every state and operands: the difference (with
borrow C for SBC and SBCI) in Rd, the six flags by SubFlags (Z kept on a zero result for SBC and SBCI), PC + 1,
nothing else changed. -/
def Obligations.SubResults : Prop :=
  ∀ (d r : RegIx) (K : Byte) (s : State),
    (∃ t, exec (.sub d r) s = .next t ∧ SubRule (s.reg d) (s.reg r) false false (t.reg d) s.sreg t.sreg ∧
      OnlyRegisters s t [d] ∧ PcPlus s t 1) ∧
    (∃ t, exec (.subi d K) s = .next t ∧ SubRule (s.reg d) K false false (t.reg d) s.sreg t.sreg ∧
      OnlyRegisters s t [d] ∧ PcPlus s t 1) ∧
    (∃ t, exec (.sbc d r) s = .next t ∧ SubRule (s.reg d) (s.reg r) (s.flag flagC) true (t.reg d) s.sreg t.sreg ∧
      OnlyRegisters s t [d] ∧ PcPlus s t 1) ∧
    (∃ t, exec (.sbci d K) s = .next t ∧ SubRule (s.reg d) K (s.flag flagC) true (t.reg d) s.sreg t.sreg ∧
      OnlyRegisters s t [d] ∧ PcPlus s t 1)

/-- O30. CP, CPC and CPI. CP, CPC and CPI complete on every state and operands: the flags of the discarded difference
by SubFlags, every register unchanged, PC + 1, nothing else changed. -/
def Obligations.CompareResults : Prop :=
  ∀ (d r : RegIx) (K : Byte) (s : State),
    (∃ t, exec (.cp d r) s = .next t ∧ (∃ res, SubRule (s.reg d) (s.reg r) false false res s.sreg t.sreg) ∧
      OnlySreg s t ∧ PcPlus s t 1) ∧
    (∃ t, exec (.cpc d r) s = .next t ∧ (∃ res, SubRule (s.reg d) (s.reg r) (s.flag flagC) true res s.sreg t.sreg) ∧
      OnlySreg s t ∧ PcPlus s t 1) ∧
    (∃ t, exec (.cpi d K) s = .next t ∧ (∃ res, SubRule (s.reg d) K false false res s.sreg t.sreg) ∧
      OnlySreg s t ∧ PcPlus s t 1)

/-- O31. What the flags say after a compare or a subtraction. After CP Rd,Rr, CPI Rd,K, SUB Rd,Rr and SUBI Rd,K: Z = 1
exactly when the operands are equal, C = 1 exactly when Rd is lower unsigned, S = 1 exactly when Rd is less signed; so
BREQ, BRLO and BRLT branch exactly then. -/
def Obligations.CompareOrders : Prop :=
  ∀ (i : Instr) (s : State) (d : RegIx) (x : Byte),
    ((∃ r, x = s.reg r ∧ (i = .cp d r ∨ i = .sub d r)) ∨ i = .cpi d x ∨ i = .subi d x) →
    ∃ t, exec i s = .next t ∧ (t.flag flagZ = true ↔ s.reg d = x) ∧
      (t.flag flagC = true ↔ (s.reg d).toNat < x.toNat) ∧ (t.flag flagS = true ↔ (s.reg d).toInt < x.toInt) ∧
      (∀ k, ∃ u v w, exec (.breq k) t = .next u ∧ PcPlus t u (if s.reg d = x then k.toInt + 1 else 1) ∧
        exec (.brlo k) t = .next v ∧ PcPlus t v (if (s.reg d).toNat < x.toNat then k.toInt + 1 else 1) ∧
        exec (.brlt k) t = .next w ∧ PcPlus t w (if (s.reg d).toInt < x.toInt then k.toInt + 1 else 1))

/-- O32. A 16-bit subtraction by SUB then SBC, and compare by CP then CPC. SUB on the low bytes then SBC on the high
bytes (the low result not an operand of the second) gives the 16-bit difference, with Z = 1 exactly when it is zero
and C = 1 exactly when the minuend is lower; CP then CPC give the same Z and C. -/
def Obligations.WordSubtraction : Prop :=
  ∀ (d d' r r' : RegIx) (s : State) (a b : Nat), a = (s.reg d').toNat * 256 + (s.reg d).toNat →
    b = (s.reg r').toNat * 256 + (s.reg r).toNat →
    (d' ≠ d → r' ≠ d →
      ∃ t u, exec (.sub d r) s = .next t ∧ exec (.sbc d' r') t = .next u ∧
        (((u.reg d').toNat * 256 + (u.reg d).toNat : Nat) : Int) = ((a : Int) - b) % 65536 ∧
        u.flag flagZ = decide (a = b) ∧ u.flag flagC = decide (a < b)) ∧
    (∃ t u, exec (.cp d r) s = .next t ∧ exec (.cpc d' r') t = .next u ∧
        u.flag flagZ = decide (a = b) ∧ u.flag flagC = decide (a < b) ∧ u.regs = s.regs)

/-- O33. LogicFlags, and COM's flags after it. For every result and SREG: V = 0, N = R7, Z = (R = 0), S = N xor V
which equals N, and H, C, T, I unchanged; COM's flags are these with C set. -/
def Obligations.LogicFlagFormulas : Prop :=
  ∀ res sreg : Byte, LogicRule res sreg (logicFlags sreg res) ∧ comFlags sreg res = logicFlags sreg res ||| 0x01

/-- O34. AND, ANDI, OR, ORI, EOR, SBR, CBR, TST, CLR. The logic instructions and their named forms complete on every
state and operands: bit by bit the and, or or exclusive or of the operands in Rd (CBR clears the bits of K, SBR sets
them, TST leaves Rd, CLR gives 0x00 with Z = 1), flags by LogicFlags, PC + 1, nothing else changed. -/
def Obligations.LogicResults : Prop :=
  ∀ (d r : RegIx) (K : Byte) (s : State),
    (∃ t, exec (.and d r) s = .next t ∧ (∀ b, getBit (t.reg d) b = (getBit (s.reg d) b && getBit (s.reg r) b)) ∧
      LogicRule (t.reg d) s.sreg t.sreg ∧ OnlyRegisters s t [d] ∧ PcPlus s t 1) ∧
    (∃ t, exec (.andi d K) s = .next t ∧ (∀ b, getBit (t.reg d) b = (getBit (s.reg d) b && getBit K b)) ∧
      LogicRule (t.reg d) s.sreg t.sreg ∧ OnlyRegisters s t [d] ∧ PcPlus s t 1) ∧
    (∃ t, exec (.or d r) s = .next t ∧ (∀ b, getBit (t.reg d) b = (getBit (s.reg d) b || getBit (s.reg r) b)) ∧
      LogicRule (t.reg d) s.sreg t.sreg ∧ OnlyRegisters s t [d] ∧ PcPlus s t 1) ∧
    (∃ t, exec (.ori d K) s = .next t ∧ (∀ b, getBit (t.reg d) b = (getBit (s.reg d) b || getBit K b)) ∧
      LogicRule (t.reg d) s.sreg t.sreg ∧ OnlyRegisters s t [d] ∧ PcPlus s t 1) ∧
    (∃ t, exec (.eor d r) s = .next t ∧ (∀ b, getBit (t.reg d) b = (getBit (s.reg d) b ^^ getBit (s.reg r) b)) ∧
      LogicRule (t.reg d) s.sreg t.sreg ∧ OnlyRegisters s t [d] ∧ PcPlus s t 1) ∧
    (∃ t, exec (.sbr d K) s = .next t ∧ (∀ b, getBit (t.reg d) b = (getBit (s.reg d) b || getBit K b)) ∧
      LogicRule (t.reg d) s.sreg t.sreg ∧ OnlyRegisters s t [d] ∧ PcPlus s t 1) ∧
    (∃ t, exec (.cbr d K) s = .next t ∧ (∀ b, getBit (t.reg d) b = (getBit (s.reg d) b && !getBit K b)) ∧
      LogicRule (t.reg d) s.sreg t.sreg ∧ OnlyRegisters s t [d] ∧ PcPlus s t 1) ∧
    (∃ t, exec (.tst d) s = .next t ∧ LogicRule (s.reg d) s.sreg t.sreg ∧ OnlySreg s t ∧ PcPlus s t 1) ∧
    (∃ t, exec (.clr d) s = .next t ∧ t.reg d = 0x00 ∧ t.flag flagZ = true ∧ LogicRule 0x00 s.sreg t.sreg ∧
      OnlyRegisters s t [d] ∧ PcPlus s t 1)

/-- O35. COM, NEG, INC and DEC. COM, NEG, INC and DEC complete on every state and operand: the complement (C = 1), the
two's complement (C = 1 unless zero, V exactly at 0x80, H = R3 + Rd3), the increment (V exactly from 0x7F), the
decrement (V exactly from 0x80); INC and DEC keep C and H; PC + 1, nothing else changed. -/
def Obligations.OneRegisterResults : Prop :=
  ∀ (d : RegIx) (s : State),
    (∃ t, exec (.com d) s = .next t ∧ (t.reg d).toNat = 255 - (s.reg d).toNat ∧ t.flag flagC = true ∧
      t.flag flagV = false ∧ t.flag flagN = getBit (t.reg d) 7 ∧ t.flag flagZ = decide (t.reg d = 0) ∧
      t.flag flagS = (t.flag flagN ^^ t.flag flagV) ∧ FlagsKept [flagS, flagV, flagN, flagZ, flagC] s.sreg t.sreg ∧
      OnlyRegisters s t [d] ∧ PcPlus s t 1) ∧
    (∃ t, exec (.neg d) s = .next t ∧ (t.reg d).toNat = (256 - (s.reg d).toNat) % 256 ∧
      t.flag flagH = (getBit (t.reg d) 3 || getBit (s.reg d) 3) ∧ t.flag flagV = decide (t.reg d = 0x80) ∧
      t.flag flagN = getBit (t.reg d) 7 ∧ t.flag flagZ = decide (t.reg d = 0) ∧ t.flag flagC = decide (t.reg d ≠ 0) ∧
      t.flag flagS = (t.flag flagN ^^ t.flag flagV) ∧
      FlagsKept [flagH, flagS, flagV, flagN, flagZ, flagC] s.sreg t.sreg ∧ OnlyRegisters s t [d] ∧ PcPlus s t 1) ∧
    (∃ t, exec (.inc d) s = .next t ∧ (t.reg d).toNat = ((s.reg d).toNat + 1) % 256 ∧
      t.flag flagV = decide (s.reg d = 0x7F) ∧ t.flag flagN = getBit (t.reg d) 7 ∧
      t.flag flagZ = decide (t.reg d = 0) ∧ t.flag flagS = (t.flag flagN ^^ t.flag flagV) ∧
      FlagsKept [flagS, flagV, flagN, flagZ] s.sreg t.sreg ∧ OnlyRegisters s t [d] ∧ PcPlus s t 1) ∧
    (∃ t, exec (.dec d) s = .next t ∧ (t.reg d).toNat = ((s.reg d).toNat + 255) % 256 ∧
      t.flag flagV = decide (s.reg d = 0x80) ∧ t.flag flagN = getBit (t.reg d) 7 ∧
      t.flag flagZ = decide (t.reg d = 0) ∧ t.flag flagS = (t.flag flagN ^^ t.flag flagV) ∧
      FlagsKept [flagS, flagV, flagN, flagZ] s.sreg t.sreg ∧ OnlyRegisters s t [d] ∧ PcPlus s t 1)

/-- O36. ADIW and SBIW. ADIW and SBIW complete on every state and operands: the 16-bit sum or difference of the pair
and K in the pair, V and C by the printed formulas (C is the carry out, or K > W), N, Z and S from the 16-bit result,
H, T and I unchanged, PC + 1, nothing else changed. -/
def Obligations.WordImmediates : Prop :=
  ∀ (d : RegIx) (K : BitVec 6) (s : State) (W : Nat), W = (s.reg (d + 1)).toNat * 256 + (s.reg d).toNat →
    (∃ t, exec (.adiw d K) s = .next t ∧
      (t.reg (d + 1)).toNat * 256 + (t.reg d).toNat = (W + K.toNat) % 65536 ∧
      t.flag flagC = decide (65536 ≤ W + K.toNat) ∧
      t.flag flagV = (!getBit (s.reg (d + 1)) 7 && getBit (t.reg (d + 1)) 7) ∧
      t.flag flagC = (!getBit (t.reg (d + 1)) 7 && getBit (s.reg (d + 1)) 7) ∧
      WordFlags ((W + K.toNat) % 65536) s.sreg t.sreg ∧ OnlyRegisters s t [d, d + 1] ∧ PcPlus s t 1) ∧
    (∃ t, exec (.sbiw d K) s = .next t ∧
      (t.reg (d + 1)).toNat * 256 + (t.reg d).toNat = (W + 65536 - K.toNat) % 65536 ∧
      t.flag flagC = decide (W < K.toNat) ∧
      t.flag flagV = (getBit (s.reg (d + 1)) 7 && !getBit (t.reg (d + 1)) 7) ∧
      t.flag flagC = (getBit (t.reg (d + 1)) 7 && !getBit (s.reg (d + 1)) 7) ∧
      WordFlags ((W + 65536 - K.toNat) % 65536) s.sreg t.sreg ∧ OnlyRegisters s t [d, d + 1] ∧ PcPlus s t 1)

/-- O37. MUL, MULS, MULSU, FMUL, FMULS and FMULSU. The six multiplies complete on every state and operands: the 16-bit
product of the unsigned or signed operands (shifted one bit left for the fractional ones) in R1:R0, C = bit 15 of the
product before any shift, Z = the result in R1:R0 is zero, the other flags unchanged, PC + 1, nothing else changed. -/
def Obligations.Products : Prop :=
  ∀ (d r : RegIx) (s : State),
    (∃ t, exec (.mul d r) s = .next t ∧ ProductRule ((s.reg d).toNat * (s.reg r).toNat : Nat) 0 s t) ∧
    (∃ t, exec (.muls d r) s = .next t ∧ ProductRule ((s.reg d).toInt * (s.reg r).toInt) 0 s t) ∧
    (∃ t, exec (.mulsu d r) s = .next t ∧ ProductRule ((s.reg d).toInt * (s.reg r).toNat) 0 s t) ∧
    (∃ t, exec (.fmul d r) s = .next t ∧ ProductRule ((s.reg d).toNat * (s.reg r).toNat : Nat) 1 s t) ∧
    (∃ t, exec (.fmuls d r) s = .next t ∧ ProductRule ((s.reg d).toInt * (s.reg r).toInt) 1 s t) ∧
    (∃ t, exec (.fmulsu d r) s = .next t ∧ ProductRule ((s.reg d).toInt * (s.reg r).toNat) 1 s t)

/-- O38. DES: one round on R0 to R15, chosen by K and H, and sixteen rounds in order. DES K completes on every state:
with the data block R7..R0 and the key block R15..R8, byte k of Cfg.DesRound's data result goes to Rk and byte k of
its key result to R(8+k); H selects the direction; no flag is written; PC + 1; R16 to R31 and everything else
unchanged. DES 0 to DES 15 one after the other leave in R7..R0 the DES encryption (H = 0) or decryption (H = 1) of the
data block under the key block, in R15..R8 the key as it was, and PC + 16. (The round is a parameter by the spec's
decision D21, whose contract says that the key is restored; R171 leaves that open. The cipher and the intermediate
rounds are free; log 10.) -/
def Obligations.DesRound : Prop :=
  ∀ (K : BitVec 4) (s : State) (D Q : BitVec 64),
    (∀ k : Fin 8, D.toNat / 256 ^ k.val % 256 = (s.reg (Fin.ofNat 32 k.val)).toNat) →
    (∀ k : Fin 8, Q.toNat / 256 ^ k.val % 256 = (s.reg (Fin.ofNat 32 (8 + k.val))).toNat) →
    (∃ t, exec (.des K) s = .next t ∧
      (∀ k : Fin 8, (t.reg (Fin.ofNat 32 k.val)).toNat =
        (desRound D Q K (s.flag flagH)).1.toNat / 256 ^ k.val % 256) ∧
      (∀ k : Fin 8, (t.reg (Fin.ofNat 32 (8 + k.val))).toNat =
        (desRound D Q K (s.flag flagH)).2.toNat / 256 ^ k.val % 256) ∧
      t.sreg = s.sreg ∧ OnlyRegisters s t [0, 1, 2, 3, 4, 5, 6, 7, 8, 9, 10, 11, 12, 13, 14, 15] ∧ PcPlus s t 1) ∧
    ∃ t, execAll desSixteen s = .next t ∧
      (∀ k : Fin 8, (t.reg (Fin.ofNat 32 k.val)).toNat =
        (if s.flag flagH then (Config.desCipher Q).symm D else Config.desCipher Q D).toNat / 256 ^ k.val % 256) ∧
      (∀ k : Fin 8, t.reg (Fin.ofNat 32 (8 + k.val)) = s.reg (Fin.ofNat 32 (8 + k.val))) ∧ t.sreg = s.sreg ∧
      OnlyRegisters s t [0, 1, 2, 3, 4, 5, 6, 7, 8, 9, 10, 11, 12, 13, 14, 15] ∧ PcPlus s t 16

/-- O39. RJMP, IJMP, EIJMP and JMP. The jumps complete on every state: PC + k + 1 for RJMP (k in two's complement), Z
for IJMP (with PC(21:16) clear), EIND[5:0]:Z for EIJMP, k for JMP, each modulo 2^PC_BITS; nothing else changed. -/
def Obligations.Jumps : Prop :=
  ∀ s : State,
    (∀ k, ∃ t, exec (.rjmp k) s = .next t ∧ OnlyPc s t ∧ PcPlus s t (k.toInt + 1)) ∧
    (∃ t, exec .ijmp s = .next t ∧ OnlyPc s t ∧
      t.pc.toNat = ((s.reg 31).toNat * 256 + (s.reg 30).toNat) % 2 ^ pcBits s.cfg.pcWidth) ∧
    (∃ t, exec .eijmp s = .next t ∧ OnlyPc s t ∧ t.pc.toNat =
      (s.eind.toNat % 64 * 65536 + (s.reg 31).toNat * 256 + (s.reg 30).toNat) % 2 ^ pcBits s.cfg.pcWidth) ∧
    (∀ k, ∃ t, exec (.jmp k) s = .next t ∧ OnlyPc s t ∧ t.pc.toNat = k.toNat % 2 ^ pcBits s.cfg.pcWidth)

/-- O40. BRBS, BRBC and the eighteen named branches. The conditional branches complete on every state: PC + k + 1 (k
in two's complement) when the tested bit of SREG is set, or clear, else PC + 1; nothing else changed. -/
def Obligations.Branches : Prop :=
  (∀ n, BranchRule (.brbs n) (fun s => s.sreg.getLsbD n.val)) ∧
    (∀ n, BranchRule (.brbc n) (fun s => !s.sreg.getLsbD n.val)) ∧
    BranchRule .breq (fun s => s.sreg.getLsbD 1) ∧ BranchRule .brne (fun s => !s.sreg.getLsbD 1) ∧
    BranchRule .brcs (fun s => s.sreg.getLsbD 0) ∧ BranchRule .brcc (fun s => !s.sreg.getLsbD 0) ∧
    BranchRule .brsh (fun s => !s.sreg.getLsbD 0) ∧ BranchRule .brlo (fun s => s.sreg.getLsbD 0) ∧
    BranchRule .brmi (fun s => s.sreg.getLsbD 2) ∧ BranchRule .brpl (fun s => !s.sreg.getLsbD 2) ∧
    BranchRule .brge (fun s => !s.sreg.getLsbD 4) ∧ BranchRule .brlt (fun s => s.sreg.getLsbD 4) ∧
    BranchRule .brhs (fun s => s.sreg.getLsbD 5) ∧ BranchRule .brhc (fun s => !s.sreg.getLsbD 5) ∧
    BranchRule .brts (fun s => s.sreg.getLsbD 6) ∧ BranchRule .brtc (fun s => !s.sreg.getLsbD 6) ∧
    BranchRule .brvs (fun s => s.sreg.getLsbD 3) ∧ BranchRule .brvc (fun s => !s.sreg.getLsbD 3) ∧
    BranchRule .brie (fun s => s.sreg.getLsbD 7) ∧ BranchRule .brid (fun s => !s.sreg.getLsbD 7)

/-- O41. RCALL, ICALL, EICALL and CALL. With its 2 or 3 stack bytes in SRAM a call completes: PC + 1 (PC + 2 for CALL)
modulo 2^PC_BITS is pushed, low byte at the highest address, SP decreases by 2 or 3, the PC is at the target (Z and
EIND read before the push), and nothing else changes, every other SRAM byte included. Whatever the stack is mapped to,
the call is PushPC and then the jump, and a fault of PushPC is the call's. (Byte order and the order of reading Z are
the spec's decision D12; log 20.) -/
def Obligations.Calls : Prop :=
  (∀ k, CallRule (.rcall k) 1 (fun s => ((s.pc.toNat : Int) + k.toInt + 1 + 4194304).toNat)) ∧
    CallRule .icall 1 (fun s => (s.reg 31).toNat * 256 + (s.reg 30).toNat) ∧
    CallRule .eicall 1 (fun s => s.eind.toNat % 64 * 65536 + (s.reg 31).toNat * 256 + (s.reg 30).toNat) ∧
    (∀ k, CallRule (.call k) 2 (fun _ => k.toNat))

/-- O42. RET and RETI. With its 2 or 3 stack bytes in SRAM a return completes: the PC is the popped address modulo
2^PC_BITS, SP increases by 2 or 3, RETI also sets I and no other flag, and nothing else changes. Whatever the stack is
mapped to, the return is PopPC and then that, and a fault of PopPC is the return's. (The spec's decision D12; log 20.)
-/
def Obligations.Returns : Prop :=
  ∀ s : State,
    (∀ b, PopBytes s (pcBytes s.cfg) b →
      (∃ t, exec .ret s = .next t ∧ t.pc.toNat = poppedPc s b % 2 ^ pcBits s.cfg.pcWidth ∧
        t = { s with pc := t.pc, sp := spUp s (pcBytes s.cfg) }) ∧
      (∃ t, exec .reti s = .next t ∧ t.pc.toNat = poppedPc s b % 2 ^ pcBits s.cfg.pcWidth ∧ t.flag flagI = true ∧
        FlagsKept [flagI] s.sreg t.sreg ∧
        t = { s with pc := t.pc, sreg := t.sreg, sp := spUp s (pcBytes s.cfg) })) ∧
    (∀ ra u, popPc s = .ok ra u →
      (∃ t, exec .ret s = .next t ∧ t = { u with pc := t.pc } ∧ t.pc.toNat = ra.toNat % 2 ^ pcBits s.cfg.pcWidth) ∧
      (∃ t, exec .reti s = .next t ∧ t = { u with pc := t.pc, sreg := t.sreg } ∧ t.flag flagI = true ∧
        FlagsKept [flagI] u.sreg t.sreg ∧ t.pc.toNat = ra.toNat % 2 ^ pcBits s.cfg.pcWidth)) ∧
    (∀ f u, popPc s = .stop f u → exec .ret s = .fault (raise f u) ∧ exec .reti s = .fault (raise f u))

/-- O43. CPSE, SBRC, SBRS, SBIC and SBIS. With the condition false PC + 1 and the next word is not examined; with it
true PC + 3 over a two-word pattern, PC + 2 over any other word, or FetchOutOfRange when PC + 1 is above FLASHEND;
nothing else changes. SBIC and SBIS read the whole I/O location first, and only that read may change the device. (The
look-ahead and its fault are the spec's decisions D3, D22; log 13.) -/
def Obligations.Skips : Prop :=
  (∀ (d r : RegIx) (s : State), SkipRule (decide (s.reg d = s.reg r)) (exec (.cpse d r) s) s s) ∧
    (∀ (r : RegIx) (b : BitIx) (s : State), SkipRule (!getBit (s.reg r) b) (exec (.sbrc r b) s) s s ∧
      SkipRule (getBit (s.reg r) b) (exec (.sbrs r b) s) s s) ∧
    (∀ (A : BitVec 5) (b : BitIx) (s : State),
      SkipRule (!getBit (ioRead (A.setWidth 6) s).1 b) (exec (.sbic A b) s) s (ioRead (A.setWidth 6) s).2 ∧
      SkipRule (getBit (ioRead (A.setWidth 6) s).1 b) (exec (.sbis A b) s) s (ioRead (A.setWidth 6) s).2)

/-- O44. MOV, MOVW, LDI, SER and SWAP. MOV, MOVW, LDI, SER and SWAP complete on every state and operands: Rd gets Rr,
the pair gets the pair (both read before either is written), K, 0xFF, its own nibbles exchanged; no flag is written;
PC + 1; nothing else changed. -/
def Obligations.RegisterMoves : Prop :=
  ∀ (d r : RegIx) (K : Byte) (s : State),
    (∃ t, exec (.mov d r) s = .next t ∧ t.reg d = s.reg r ∧ t.sreg = s.sreg ∧ OnlyRegisters s t [d] ∧ PcPlus s t 1) ∧
    (∃ t, exec (.movw d r) s = .next t ∧ t.reg d = s.reg r ∧ t.reg (d + 1) = s.reg (r + 1) ∧ t.sreg = s.sreg ∧
      OnlyRegisters s t [d, d + 1] ∧ PcPlus s t 1) ∧
    (∃ t, exec (.ldi d K) s = .next t ∧ t.reg d = K ∧ t.sreg = s.sreg ∧ OnlyRegisters s t [d] ∧ PcPlus s t 1) ∧
    (∃ t, exec (.ser d) s = .next t ∧ t.reg d = 0xFF ∧ t.sreg = s.sreg ∧ OnlyRegisters s t [d] ∧ PcPlus s t 1) ∧
    (∃ t, exec (.swap d) s = .next t ∧ (t.reg d).toNat = (s.reg d).toNat % 16 * 16 + (s.reg d).toNat / 16 ∧
      t.sreg = s.sreg ∧ OnlyRegisters s t [d] ∧ PcPlus s t 1)

/-- O45. LD Rd,X/Y/Z, LDD, LDS and the 16-bit LDS. A load from a readable address completes with the byte in Rd, PC +
1 (PC + 2 for LDS) and nothing else changed but what a device read changes; the address is the pointer, the pointer
plus q modulo 2^DATA_BITS, k (with RAMPD, or modulo 256), or ¬w8,w8,w10,w9,w3..0 for the 16-bit LDS. An address that
cannot be read faults with the state unchanged. (The fault is the spec's decision D7, log 14; the wrap of Y + q and Z
+ q D28; the use of the RAMP registers D29; the address of the 16-bit LDS the resolution C4.) -/
def Obligations.PlainLoads : Prop :=
  LoadRule .ldX (pointer .x) 1 ∧ LoadRule .ldY (pointer .y) 1 ∧ LoadRule .ldZ (pointer .z) 1 ∧
    (∀ q, LoadRule (fun d => .lddY d q) (fun s => (pointer .y s + q.toNat) % dataModulus s) 1) ∧
    (∀ q, LoadRule (fun d => .lddZ d q) (fun s => (pointer .z s + q.toNat) % dataModulus s) 1) ∧
    (∀ k, LoadRule (fun d => .lds d k) (direct k) 2) ∧
    (∀ k, LoadRule (fun d => .lds16 d k)
      (fun _ => (if k.toNat / 16 % 2 = 1 then 0x40 else 0x80) + k.toNat / 64 * 32 + k.toNat / 32 % 2 * 16 + k.toNat % 16)
      1)

/-- O46. LD with post-increment and pre-decrement. For a data register outside the pointer: LD Rd,P+ reads at the
pointer and then writes the pointer plus one modulo 2^DATA_BITS; LD Rd,-P first writes the pointer minus one and reads
there; only the bytes that take part in the address are written; PC + 1. A read that cannot be made faults, with the
pointer unchanged for P+ and decremented for -P. (Order of effects and wrap are the spec's decisions D6, D7, D28.) -/
def Obligations.MovingLoads : Prop :=
  LoadIncRule .ldXInc .x ∧ LoadIncRule .ldYInc .y ∧ LoadIncRule .ldZInc .z ∧
    LoadDecRule .ldXDec .x ∧ LoadDecRule .ldYDec .y ∧ LoadDecRule .ldZDec .z

/-- O47. ST X/Y/Z,Rr, STD, STS and the 16-bit STS. A store to a writable address completes: exactly the place the
address names takes Rr (every other SRAM byte reads as before), PC + 1 (PC + 2 for STS), nothing else changed; an
address that cannot be written faults with the state unchanged. (The fault is the spec's decision D7, log 14; the wrap
of Y + q and Z + q D28; the use of the RAMP registers D29; the address of the 16-bit STS the resolution C4.) -/
def Obligations.PlainStores : Prop :=
  StoreRule .stX (pointer .x) 1 ∧ StoreRule .stY (pointer .y) 1 ∧ StoreRule .stZ (pointer .z) 1 ∧
    (∀ q, StoreRule (.stdY q) (fun s => (pointer .y s + q.toNat) % dataModulus s) 1) ∧
    (∀ q, StoreRule (.stdZ q) (fun s => (pointer .z s + q.toNat) % dataModulus s) 1) ∧
    (∀ k, StoreRule (.sts k) (direct k) 2) ∧
    (∀ k, StoreRule (.sts16 k)
      (fun _ => (if k.toNat / 16 % 2 = 1 then 0x40 else 0x80) + k.toNat / 64 * 32 + k.toNat / 32 % 2 * 16 + k.toNat % 16)
      1)

/-- O48. ST with post-increment and pre-decrement. For a data register outside the pointer: ST P+,Rr writes Rr at the
pointer and then the pointer plus one; ST -P,Rr first writes the pointer minus one and stores there the value Rr had;
PC + 1. A write that cannot be made faults, with the pointer unchanged for P+ and decremented for -P. (Order of
effects and wrap are the spec's decisions D6, D7, D28.) -/
def Obligations.MovingStores : Prop :=
  StoreIncRule .stXInc .x ∧ StoreIncRule .stYInc .y ∧ StoreIncRule .stZInc .z ∧
    StoreDecRule .stXDec .x ∧ StoreDecRule .stYDec .y ∧ StoreDecRule .stZDec .z

/-- O49. The 28 undefined operand combinations stop by name, with no effect. The post-increment and pre-decrement
loads and stores whose data register is a register of their pointer, and LPM and ELPM with Z+ into R30 or R31, raise
UndefinedOperand with the PC and the word (the encoding of the instruction), the state unchanged but for the run
state; the words are those R290 and R336 list. (The stop is the spec's decision D6; log 22.) -/
def Obligations.UndefinedCombinations : Prop :=
  (∀ (s : State) (i : Instr) (w : Word), (i, w) ∈
      [(.ldXInc 26, 0x91AD), (.ldXInc 27, 0x91BD), (.ldXDec 26, 0x91AE), (.ldXDec 27, 0x91BE), (.ldYInc 28, 0x91C9),
       (.ldYInc 29, 0x91D9), (.ldYDec 28, 0x91CA), (.ldYDec 29, 0x91DA), (.ldZInc 30, 0x91E1), (.ldZInc 31, 0x91F1),
       (.ldZDec 30, 0x91E2), (.ldZDec 31, 0x91F2), (.stXInc 26, 0x93AD), (.stXInc 27, 0x93BD), (.stXDec 26, 0x93AE),
       (.stXDec 27, 0x93BE), (.stYInc 28, 0x93C9), (.stYInc 29, 0x93D9), (.stYDec 28, 0x93CA), (.stYDec 29, 0x93DA),
       (.stZInc 30, 0x93E1), (.stZInc 31, 0x93F1), (.stZDec 30, 0x93E2), (.stZDec 31, 0x93F2),
       (.lpmZInc 30, 0x91E5), (.lpmZInc 31, 0x91F5), (.elpmZInc 30, 0x91E7), (.elpmZInc 31, 0x91F7)] →
    decode s.cfg.core w 0 = some i ∧
      exec i s = .fault (.undefinedOperand s.pc w { s with run := .faulted (.undefinedOperand s.pc w) }))

/-- O50. LPM and ELPM without increment. LPM, LPM Rd,Z, ELPM and ELPM Rd,Z complete when the word of the byte address
(Z, or RAMPZ:Z) is within FLASHEND: the byte in R0 or Rd, PC + 1, no flag, nothing else changed (Z and RAMPZ stay
unless Rd is part of Z); above FLASHEND they raise FetchOutOfRange with the word. (The fault is the spec's decision
D30, log 14; that LPM and ELPM read program memory only is log 29.) -/
def Obligations.ProgramLoads : Prop :=
  ∀ (d : RegIx) (s : State) (i : Instr) (x : RegIx) (a : Nat),
    ((i = .lpmR0 ∧ x = 0 ∨ i = .lpm d ∧ x = d) ∧ a = (s.reg 31).toNat * 256 + (s.reg 30).toNat ∨
      (i = .elpmR0 ∧ x = 0 ∨ i = .elpm d ∧ x = d) ∧
        a = s.rampZ.toNat * 65536 + (s.reg 31).toNat * 256 + (s.reg 30).toNat) →
    (a / 2 ≤ s.cfg.flashEnd →
      ∃ t, exec i s = .next t ∧ Loads x (s.progByte a) s s t 1) ∧
    (s.cfg.flashEnd < a / 2 → exec i s = .fault (raise (.fetchOutOfRange (a / 2)) s))

/-- O51. LPM Rd,Z+ and ELPM Rd,Z+. For d other than 30 and 31: LPM Rd,Z+ loads the byte at Z and increments Z modulo
2^16, RAMPZ unchanged; ELPM Rd,Z+ loads the byte at RAMPZ:Z and increments the 24-bit RAMPZ:Z; PC + 1, no flag,
nothing else changed; above FLASHEND FetchOutOfRange, nothing changed. (The fault with the pointer unchanged is the
spec's decision D30, log 14; the wrap modulo 2^16 and 2^24 D28; that they read program memory only is log 29.) -/
def Obligations.ProgramLoadsIncrement : Prop :=
  ∀ (d : RegIx) (s : State) (z : Nat), d ≠ 30 → d ≠ 31 → z = (s.reg 31).toNat * 256 + (s.reg 30).toNat →
    (z / 2 ≤ s.cfg.flashEnd →
      ∃ t, exec (.lpmZInc d) s = .next t ∧ t.reg d = s.progByte z ∧
        (t.reg 31).toNat * 256 + (t.reg 30).toNat = (z + 1) % 65536 ∧ t.rampZ = s.rampZ ∧ t.sreg = s.sreg ∧
        OnlyRegisters s t [d, 30, 31] ∧ PcPlus s t 1) ∧
    (s.cfg.flashEnd < z / 2 → exec (.lpmZInc d) s = .fault (raise (.fetchOutOfRange (z / 2)) s)) ∧
    (∀ a, a = s.rampZ.toNat * 65536 + z → a / 2 ≤ s.cfg.flashEnd →
      ∃ t, exec (.elpmZInc d) s = .next t ∧ t.reg d = s.progByte a ∧
        t.rampZ.toNat * 65536 + (t.reg 31).toNat * 256 + (t.reg 30).toNat = (a + 1) % 16777216 ∧
        (∀ i, i ∉ [d, 30, 31] → t.reg i = s.reg i) ∧ MemoryKept s t ∧
        t = { s with regs := t.regs, rampZ := t.rampZ, pc := t.pc } ∧ PcPlus s t 1) ∧
    (∀ a, a = s.rampZ.toNat * 65536 + z → s.cfg.flashEnd < a / 2 →
      exec (.elpmZInc d) s = .fault (raise (.fetchOutOfRange (a / 2)) s))

/-- O52. SPM and SPM Z+: what each of the device's operations does to program memory and the device. On a device whose
SpmOp has pages of a positive size, SPM and SPM Z+ complete: with a = RAMPZ:Z (RAMPZ taken as 0 without more than 64K
of program), the operation SpmOp chooses fills the page of a with FFFF, writes R1:R0 to the word of a, writes the page
from the buffer, or none of these; a word the operation does not write is the last one SpmOp itself wrote there, or as
before; the device is the one SpmOp answers, with R1:R0 in the buffer word of a or in the lock bits where the
operation says so, every other word of the page buffer as SpmOp answers it; a listed controller writes no word of its
own (no word of another page changes) and no device location, and keeps the requests, the sleep condition and the
reset request; SPM Z+ adds 2 to Z and leaves RAMPZ; registers, flags, SP and SRAM are otherwise unchanged; PC + 1.
(SpmOp is a parameter by the spec's decision D19; which operations there are, the page, the buffer and what a listed
controller keeps are the model's form of it, log 11.) -/
def Obligations.StoreProgram : Prop :=
  ∀ (s : State) (size a : Nat), s.cfg.spmOp = some (.listed size) ∨ s.cfg.spmOp = some (.function size) → 0 < size →
    a = (if s.cfg.progGt64k then s.rampZ.toNat else 0) * 65536 + (s.reg 31).toNat * 256 + (s.reg 30).toNat →
    ∀ (form : SpmForm) (i : Instr), (i, form) ∈ [(.spm, .spm), (.spmZInc, .spmZInc)] →
      ∃ t u, exec i s = .next t ∧ u = { s with dev := (spmResult form s).dev } ∧ PcPlus s t 1 ∧
        (∀ w, w ≤ s.cfg.flashEnd → ∀ old, old = (lastWord (spmResult form s).words w).getD (s.progWord w) →
          t.progWord w = match spmAct form s with
          | .erasePage => if w / size = a / 2 / size then 0xFFFF else old
          | .writeWord => if w = a / 2 then s.reg 1 ++ s.reg 0 else old
          | .writePage => if w / size = a / 2 / size then s.pageWord w else old
          | .fillBuffer => old
          | .setLockBits => old
          | .nothing => old) ∧
        t.pageWord (a / 2) = (if spmAct form s = .fillBuffer then s.reg 1 ++ s.reg 0 else u.pageWord (a / 2)) ∧
        (∀ w, w % size ≠ a / 2 % size → t.pageWord w = u.pageWord w) ∧
        t.dev.lockBits = (if spmAct form s = .setLockBits then s.reg 1 ++ s.reg 0 else u.dev.lockBits) ∧
        (∀ loc, t.deviceByte loc = u.deviceByte loc) ∧
        t.dev = { u.dev with pageBuffer := t.dev.pageBuffer, lockBits := t.dev.lockBits } ∧
        (s.cfg.spmOp = some (.listed size) → (spmResult form s).words = [] ∧
          (∀ w, w ≤ s.cfg.flashEnd → w / size ≠ a / 2 / size → t.progWord w = s.progWord w) ∧
          (∀ loc, t.deviceByte loc = s.deviceByte loc) ∧ u.dev = { s.dev with hidden := u.dev.hidden }) ∧
        t.dev.inputs = s.dev.inputs ∧ (∀ r, r ∉ [30, 31] → t.reg r = s.reg r) ∧
        (t.reg 31).toNat * 256 + (t.reg 30).toNat =
          ((s.reg 31).toNat * 256 + (s.reg 30).toNat + (if i = .spmZInc then 2 else 0)) % 65536 ∧
        (∀ x, t.sramByte x = s.sramByte x) ∧
        t = { s with regs := t.regs, pc := t.pc, prog := t.prog, dev := t.dev }

/-- O53. IN and OUT. IN and OUT complete on every state and operands: Rd gets IoRead(A), only a device read changing
more; OUT is IoWrite(A, Rr); PC + 1; nothing else changed. -/
def Obligations.InOut : Prop :=
  ∀ (d r : RegIx) (A : BitVec 6) (s : State),
    (∃ t, exec (.inp d A) s = .next t ∧ Loads d (ioRead A s).1 s (ioRead A s).2 t 1) ∧
    (∃ t, exec (.out A r) s = .next t ∧ Moves s (ioWrite A (s.reg r) s) t 1)

/-- O54. PUSH and POP. PUSH stores Rr where SP points and then decrements SP modulo 2^SP_BITS; POP increments SP and
loads Rd from there; PC + 1. A PUSH to an address that cannot be written faults with SP unchanged; a POP from one that
cannot be read faults with SP already incremented. With SRAM below SP, POP Rd after PUSH Rr gives Rd = Rr and SP as
before. (The faults and the SP each leaves are the spec's decision D7, log 14; the wrap modulo 2^SP_BITS D11.) -/
def Obligations.PushPop : Prop :=
  ∀ (d r : RegIx) (s : State),
    (writable s s.sp.toNat = true →
      ∃ u t, Writes s.sp.toNat (s.reg r) s u ∧ exec (.push r) s = .next t ∧
        t = { u with sp := t.sp, pc := t.pc } ∧ t.sp = wrapSp s.cfg (u.sp - 1) ∧ PcPlus s t 1) ∧
    (writable s s.sp.toNat = false → exec (.push r) s = .fault (raise (.dataAccess s.sp.toNat) s)) ∧
    (readable s (spUp s 1).toNat = true →
      ∃ v u t, Reads (spUp s 1).toNat { s with sp := spUp s 1 } v u ∧ exec (.pop d) s = .next t ∧
        Loads d v s u t 1) ∧
    (readable s (spUp s 1).toNat = false →
      exec (.pop d) s = .fault (raise (accessFault s (spUp s 1).toNat) { s with sp := spUp s 1 })) ∧
    (∀ b, place s.cfg s.sp.toNat = .sram b → s.sp = wrapSp s.cfg s.sp →
      ∃ t u, exec (.push r) s = .next t ∧ exec (.pop d) t = .next u ∧ u.reg d = s.reg r ∧ u.sp = s.sp ∧
        ∀ i, i ≠ d → u.reg i = s.reg i)

/-- O55. XCH, LAS, LAC and LAT. At a writable address the four read the byte at Z and write back Rd, Rd OR it, (NOT
Rd) AND it, or Rd XOR it, and Rd gets the byte as it was; every other SRAM byte reads as before, Z and RAMPZ are not
updated, PC + 1; an address that cannot be read or written faults with nothing changed. (The fault is the spec's
decision D7, log 14; the order read, compute, write D32; LAC's operation the resolution C1.) -/
def Obligations.Exchanges : Prop :=
  ExchangeRule .xch (fun rd _ => rd) ∧
    ExchangeRule .las (fun rd old => BitVec.ofNat 8 (rd.toNat ||| old.toNat)) ∧
    ExchangeRule .lac (fun rd old => BitVec.ofNat 8 ((255 - rd.toNat) &&& old.toNat)) ∧
    ExchangeRule .lat (fun rd old => BitVec.ofNat 8 (rd.toNat ^^^ old.toNat))

/-- O56. LSL, LSR, ROL, ROR and ASR. The shifts and rotates complete on every state and operand: the shifted value in
Rd, C the bit shifted out, N, Z, V = N xor C, S = N xor V, H = bit 3 of the old Rd for LSL and ROL and unchanged for
the others, T and I unchanged, PC + 1, nothing else changed. -/
def Obligations.Shifts : Prop :=
  ∀ (d : RegIx) (s : State) (a c : Nat), a = (s.reg d).toNat → c = (s.flag flagC).toNat →
    (∃ t, exec (.lsl d) s = .next t ∧ (t.reg d).toNat = a * 2 % 256 ∧ ShiftRule (getBit (s.reg d) 7) (t.reg d) t.sreg ∧
      t.flag flagH = getBit (s.reg d) 3 ∧ FlagsKept [flagH, flagS, flagV, flagN, flagZ, flagC] s.sreg t.sreg ∧
      OnlyRegisters s t [d] ∧ PcPlus s t 1) ∧
    (∃ t, exec (.rol d) s = .next t ∧ (t.reg d).toNat = (a * 2 + c) % 256 ∧
      ShiftRule (getBit (s.reg d) 7) (t.reg d) t.sreg ∧ t.flag flagH = getBit (s.reg d) 3 ∧
      FlagsKept [flagH, flagS, flagV, flagN, flagZ, flagC] s.sreg t.sreg ∧ OnlyRegisters s t [d] ∧ PcPlus s t 1) ∧
    (∃ t, exec (.lsr d) s = .next t ∧ (t.reg d).toNat = a / 2 ∧ ShiftRule (getBit (s.reg d) 0) (t.reg d) t.sreg ∧
      t.flag flagN = false ∧ FlagsKept [flagS, flagV, flagN, flagZ, flagC] s.sreg t.sreg ∧
      OnlyRegisters s t [d] ∧ PcPlus s t 1) ∧
    (∃ t, exec (.ror d) s = .next t ∧ (t.reg d).toNat = c * 128 + a / 2 ∧
      ShiftRule (getBit (s.reg d) 0) (t.reg d) t.sreg ∧ FlagsKept [flagS, flagV, flagN, flagZ, flagC] s.sreg t.sreg ∧
      OnlyRegisters s t [d] ∧ PcPlus s t 1) ∧
    (∃ t, exec (.asr d) s = .next t ∧ (t.reg d).toInt = (s.reg d).toInt / 2 ∧
      ShiftRule (getBit (s.reg d) 0) (t.reg d) t.sreg ∧ FlagsKept [flagS, flagV, flagN, flagZ, flagC] s.sreg t.sreg ∧
      OnlyRegisters s t [d] ∧ PcPlus s t 1)

/-- O57. 16-bit shifts from two byte shifts. LSL of the low byte then ROL of the high byte doubles a 16-bit value
modulo 2^16 with C the bit shifted out; LSR of the high byte then ROR of the low byte halves it unsigned, ASR then ROR
halves it signed (rounding down), with C the bit shifted out. -/
def Obligations.WordShifts : Prop :=
  ∀ (l h : RegIx) (s : State) (W : BitVec 16), l ≠ h → W = s.reg h ++ s.reg l →
    (∃ t u, exec (.lsl l) s = .next t ∧ exec (.rol h) t = .next u ∧
      (u.reg h ++ u.reg l).toNat = W.toNat * 2 % 65536 ∧ u.flag flagC = W.getLsbD 15) ∧
    (∃ t u, exec (.lsr h) s = .next t ∧ exec (.ror l) t = .next u ∧
      (u.reg h ++ u.reg l).toNat = W.toNat / 2 ∧ u.flag flagC = W.getLsbD 0) ∧
    (∃ t u, exec (.asr h) s = .next t ∧ exec (.ror l) t = .next u ∧
      (u.reg h ++ u.reg l).toInt = W.toInt / 2 ∧ u.flag flagC = W.getLsbD 0)

/-- O58. BSET, BCLR and the sixteen single-flag instructions. Each sets or clears exactly its flag, the other seven
unchanged, PC + 1; BSET 7 and SEI also set IrqInhibit, on every execution; nothing else changed. (IrqInhibit is the
spec's decision D13; log 21.) -/
def Obligations.FlagInstructions : Prop :=
  ∀ (n : BitIx) (v : Bool) (i : Instr) (s : State),
    (i = .bset n ∧ v = true ∨ i = .bclr n ∧ v = false ∨ (i, n, v) ∈
      [(.sec, flagC, true), (.clc, flagC, false), (.sen, flagN, true), (.cln, flagN, false), (.sez, flagZ, true),
       (.clz, flagZ, false), (.sei, flagI, true), (.cli, flagI, false), (.ses, flagS, true), (.cls, flagS, false),
       (.sev, flagV, true), (.clv, flagV, false), (.set, flagT, true), (.clt, flagT, false), (.seh, flagH, true),
       (.clh, flagH, false)]) →
    ∃ t, exec i s = .next t ∧ t.flag n = v ∧ FlagsKept [n] s.sreg t.sreg ∧ (∀ r, t.reg r = s.reg r) ∧
      MemoryKept s t ∧ t = { s with sreg := t.sreg, pc := t.pc, irqInhibit := t.irqInhibit } ∧
      t.irqInhibit = (s.irqInhibit || (decide (n = flagI) && v)) ∧ PcPlus s t 1

/-- O59. BST and BLD, SBI and CBI. BST copies bit b of Rd to T and writes nothing else; BLD copies T to bit b of Rd,
the other seven bits and SREG unchanged; SBI and CBI set or clear bit b of the I/O location, written back as a whole
byte, the other seven bits as read: a CPU register at that address, or the location of the reference device (every
other location unchanged), or the hook of an external device; PC + 1. (The read, modify and write of the whole byte is
the spec's decision D31, log 28; the hooks are log 9.) -/
def Obligations.BitTransfers : Prop :=
  ∀ (d : RegIx) (b : BitIx) (A : BitVec 5) (s : State),
    (∃ t, exec (.bst d b) s = .next t ∧ t.flag flagT = (s.reg d).getLsbD b.val ∧ FlagsKept [flagT] s.sreg t.sreg ∧
      OnlySreg s t ∧ PcPlus s t 1) ∧
    (∃ t, exec (.bld d b) s = .next t ∧
      (∀ c : BitIx, (t.reg d).getLsbD c.val = if c = b then s.flag flagT else (s.reg d).getLsbD c.val) ∧
      t.sreg = s.sreg ∧ OnlyRegisters s t [d] ∧ PcPlus s t 1) ∧
    ∀ v : Bool, ∃ t, exec (if v then .sbi A b else .cbi A b) s = .next t ∧
      (∀ r, cpuRegAt s.cfg (A.setWidth 6) = some r → ∃ x : Byte,
        (∀ c : BitIx, x.getLsbD c.val = if c = b then v else (ioRead (A.setWidth 6) s).1.getLsbD c.val) ∧
        Moves s (ioWrite (A.setWidth 6) x s) t 1) ∧
      (cpuRegAt s.cfg (A.setWidth 6) = none → s.cfg.device = .reference →
        (∀ c : BitIx, (t.deviceByte (.io (A.setWidth 6))).getLsbD c.val =
          if c = b then v else (s.deviceByte (.io (A.setWidth 6))).getLsbD c.val) ∧
        (∀ loc, loc ≠ .io (A.setWidth 6) → t.deviceByte loc = s.deviceByte loc) ∧
        t = { s with pc := t.pc, dev := { s.dev with bytes := t.dev.bytes } } ∧ PcPlus s t 1) ∧
      (cpuRegAt s.cfg (A.setWidth 6) = none → s.cfg.device = .external →
        Moves s (s.setHidden (if v then Config.deviceSetBit A b s.dev.hidden else Config.deviceClrBit A b s.dev.hidden))
          t 1)

/-- O60. BREAK, NOP, SLEEP and WDR compared. All four advance the PC by one. NOP changes nothing else; WDR only the
device; SLEEP only the run state, to Sleeping, and only where the device's sleep condition holds; BREAK only the run
state, to Stopped, and only with OCD_ENABLED. (SLEEP's effect and its condition are the spec's decision D16, BREAK's
D17, WDR as a device hook D18; logs 6, 9.) -/
def Obligations.McuControl : Prop :=
  ∀ s : State,
    (∃ t, exec .nop s = .next t ∧ OnlyPc s t ∧ PcPlus s t 1) ∧
    (∃ t, exec .wdr s = .next t ∧ t = { s with pc := t.pc, dev := t.dev } ∧ t.dev = (devWdr s).dev ∧ PcPlus s t 1) ∧
    (∃ t, exec .sleep s = .next t ∧ t = { s with pc := t.pc, run := t.run } ∧ PcPlus s t 1 ∧
      t.run = if devSleepEnabled s then .sleeping else s.run) ∧
    (∃ t, exec .brk s = .next t ∧ t = { s with pc := t.pc, run := t.run } ∧ PcPlus s t 1 ∧
      t.run = if s.cfg.ocdEnabled then .stopped else s.run)
end

