-- ==== Sys2Proof/Laws/Bits.lean ====
section
/-! SUPPORT. Bits of bytes, concatenations and fields as numbers; one bit written. -/

namespace Sys2Proof.Machine

open Sys2Proof

/-- A concatenation as a number. -/
theorem append_toNat {m n : Nat} (hi : BitVec m) (lo : BitVec n) :
    (hi ++ lo).toNat = hi.toNat * 2 ^ n + lo.toNat := by
  rw [BitVec.toNat_append, Nat.shiftLeft_eq, Nat.mul_comm, Nat.two_pow_add_eq_or_of_lt lo.isLt]

/-- A field as a number. -/
theorem extract_toNat {w : Nat} (v : BitVec w) (lo n : Nat) : (v.extractLsb' lo n).toNat = v.toNat / 2 ^ lo % 2 ^ n := by
  rw [BitVec.extractLsb'_toNat, Nat.shiftRight_eq_div_pow]

/-- A bit of a byte as a number. -/
theorem getBit_eq (v : Byte) (i : BitIx) : getBit v i = decide (v.toNat / 2 ^ i.val % 2 = 1) := by
  rw [getBit, BitVec.getLsbD, Nat.testBit_eq_decide_div_mod_eq]

theorem getBit_7 (v : Byte) : getBit v 7 = decide (128 ≤ v.toNat) := by
  have := v.isLt
  rw [getBit_eq]
  congr 1
  simp only [show ((7 : BitIx).val) = 7 from rfl, eq_iff_iff]
  omega

theorem getBit_3 (v : Byte) : getBit v 3 = decide (8 ≤ v.toNat % 16) := by
  rw [getBit_eq]
  congr 1
  simp only [show ((3 : BitIx).val) = 3 from rfl, eq_iff_iff]
  omega

theorem getBit_0 (v : Byte) : getBit v 0 = decide (v.toNat % 2 = 1) := by
  rw [getBit_eq]; simp

/-- The most significant bit of a byte is bit 7. -/
theorem msb_eq_getBit (v : Byte) : v.msb = getBit v 7 := rfl

/-- Two bytes with the same bits are equal. -/
theorem eq_of_getBit {v w : Byte} (h : ∀ i, getBit v i = getBit w i) : v = w :=
  BitVec.eq_of_getLsbD_eq fun i hi => h ⟨i, hi⟩

/-- The bit written reads back, the others are unchanged. -/
@[simp] theorem getBit_putBit (v : Byte) (i j : BitIx) (b : Bool) :
    getBit (putBit v i b) j = if j = i then b else getBit v j := by
  have hj : j.val < 8 := j.isLt
  have h1 : (1#8 <<< i.val).getLsbD j.val = decide (j = i) := by revert i j; decide
  cases b
  · simp only [putBit, getBit, Bool.false_eq_true, if_false, BitVec.getLsbD_and, BitVec.getLsbD_not, h1, hj]
    by_cases e : j = i <;> simp [e]
  · simp only [putBit, getBit, if_true, BitVec.getLsbD_or, h1]
    by_cases e : j = i <;> simp [e]

/-- The bits of a byte that is zero, by R140's formula for Z. -/
theorem byte_eq_zero_iff (v : Byte) : v = 0 ↔ ∀ i, getBit v i = false := by
  constructor
  · rintro rfl i; revert i; decide
  · intro h
    refine eq_of_getBit fun i => ?_
    rw [h i]; revert i; decide

end Sys2Proof.Machine
end

