-- ==== Sys2Proof/Laws/Flags.lean ====
section
/-! SUPPORT. Every bit of SREG after each flag computation. -/

namespace Sys2Proof.Machine

open Sys2Proof

variable (sreg : Byte)

/-- The bits `putSVNZ` writes, and that it writes no other. -/
theorem putSVNZ_bits (v n z : Bool) (i : BitIx) : getBit (putSVNZ sreg v n z) i =
    if i = flagS then n ^^ v else if i = flagZ then z else if i = flagN then n else if i = flagV then v
    else getBit sreg i := by
  simp only [putSVNZ, getBit_putBit]

/-- The bits `putHC` writes. -/
theorem putHC_bits (h c : Bool) (i : BitIx) : getBit (putHC sreg h c) i =
    if i = flagC then c else if i = flagH then h else getBit sreg i := by
  simp only [putHC, getBit_putBit]

/-- The bits of SREG after `AddFlags`. -/
theorem addFlags_bits (a b : Byte) (cin : Bool) (i : BitIx) : getBit (addFlags sreg a b cin) i =
    if i = flagC then decide (256 ≤ a.toNat + b.toNat + cin.toNat)
    else if i = flagH then decide (16 ≤ a.toNat % 16 + b.toNat % 16 + cin.toNat)
    else if i = flagS then (getBit (addBytes a b cin) 7 ^^ overflows8 (a.toInt + b.toInt + cin.toNat))
    else if i = flagZ then decide (addBytes a b cin = 0)
    else if i = flagN then getBit (addBytes a b cin) 7
    else if i = flagV then overflows8 (a.toInt + b.toInt + cin.toNat) else getBit sreg i := by
  simp only [addFlags, putHC_bits, putSVNZ_bits, msb_eq_getBit]

/-- The bits of SREG after `SubFlags`. -/
theorem subFlags_bits (a b : Byte) (cin keepZ : Bool) (i : BitIx) : getBit (subFlags sreg a b cin keepZ) i =
    if i = flagC then decide (a.toNat < b.toNat + cin.toNat)
    else if i = flagH then decide (a.toNat % 16 < b.toNat % 16 + cin.toNat)
    else if i = flagS then (getBit (subBytes a b cin) 7 ^^ overflows8 (a.toInt - b.toInt - cin.toNat))
    else if i = flagZ then (decide (subBytes a b cin = 0) && (!keepZ || getBit sreg flagZ))
    else if i = flagN then getBit (subBytes a b cin) 7
    else if i = flagV then overflows8 (a.toInt - b.toInt - cin.toNat) else getBit sreg i := by
  simp only [subFlags, putHC_bits, putSVNZ_bits, msb_eq_getBit]

/-- The bits of SREG after `LogicFlags`. -/
theorem logicFlags_bits (res : Byte) (i : BitIx) : getBit (logicFlags sreg res) i =
    if i = flagS then getBit res 7 else if i = flagZ then decide (res = 0) else if i = flagN then getBit res 7
    else if i = flagV then false else getBit sreg i := by
  simp only [logicFlags, putSVNZ_bits, msb_eq_getBit, Bool.xor_false]

/-- The bits of SREG after COM. -/
theorem comFlags_bits (res : Byte) (i : BitIx) : getBit (comFlags sreg res) i =
    if i = flagC then true else getBit (logicFlags sreg res) i := by
  simp only [comFlags, getBit_putBit]

/-- The bits of SREG after INC. -/
theorem incFlags_bits (res : Byte) (i : BitIx) : getBit (incFlags sreg res) i =
    if i = flagS then (getBit res 7 ^^ decide (res = 0x80)) else if i = flagZ then decide (res = 0)
    else if i = flagN then getBit res 7 else if i = flagV then decide (res = 0x80) else getBit sreg i := by
  simp only [incFlags, putSVNZ_bits, msb_eq_getBit]

/-- The bits of SREG after DEC. -/
theorem decFlags_bits (res : Byte) (i : BitIx) : getBit (decFlags sreg res) i =
    if i = flagS then (getBit res 7 ^^ decide (res = 0x7F)) else if i = flagZ then decide (res = 0)
    else if i = flagN then getBit res 7 else if i = flagV then decide (res = 0x7F) else getBit sreg i := by
  simp only [decFlags, putSVNZ_bits, msb_eq_getBit]

/-- The bits of SREG after a shift right. -/
theorem shiftFlags_bits (res : Byte) (c : Bool) (i : BitIx) : getBit (shiftFlags sreg res c) i =
    if i = flagC then c else if i = flagS then (getBit res 7 ^^ (getBit res 7 ^^ c))
    else if i = flagZ then decide (res = 0) else if i = flagN then getBit res 7
    else if i = flagV then (getBit res 7 ^^ c) else getBit sreg i := by
  simp only [shiftFlags, putSVNZ_bits, getBit_putBit, msb_eq_getBit]

/-- The bits of SREG after LSL and ROL. -/
theorem shiftLeftFlags_bits (old res : Byte) (i : BitIx) : getBit (shiftLeftFlags sreg old res) i =
    if i = flagH then getBit old 3 else getBit (shiftFlags sreg res (getBit old 7)) i := by
  simp only [shiftLeftFlags, getBit_putBit, msb_eq_getBit]

/-- The bits of SREG after a multiply. -/
theorem mulFlags_bits (c : Bool) (res : Word) (i : BitIx) : getBit (mulFlags sreg c res) i =
    if i = flagZ then decide (res = 0) else if i = flagC then c else getBit sreg i := by
  simp only [mulFlags, getBit_putBit]

/-- The bits of SREG after ADIW. -/
theorem adiwFlags_bits (old res : Word) (i : BitIx) : getBit (adiwFlags sreg old res) i =
    if i = flagC then !res.msb && old.msb else if i = flagS then (res.msb ^^ (!old.msb && res.msb))
    else if i = flagZ then decide (res = 0) else if i = flagN then res.msb
    else if i = flagV then !old.msb && res.msb else getBit sreg i := by
  simp only [adiwFlags, putSVNZ_bits, getBit_putBit]

/-- The bits of SREG after SBIW. -/
theorem sbiwFlags_bits (old res : Word) (i : BitIx) : getBit (sbiwFlags sreg old res) i =
    if i = flagC then res.msb && !old.msb else if i = flagS then (res.msb ^^ (old.msb && !res.msb))
    else if i = flagZ then decide (res = 0) else if i = flagN then res.msb
    else if i = flagV then old.msb && !res.msb else getBit sreg i := by
  simp only [sbiwFlags, putSVNZ_bits, getBit_putBit]

end Sys2Proof.Machine
end

