-- ==== Sys2Proof/Laws/Memory.lean ====
section
/-! SUPPORT. The memory laws: a read after a write, the canonical form kept. -/

namespace Sys2Proof.Machine

open Sys2Proof

/-- The address written reads back. -/
@[simp] theorem Memory.get_set_self (m : Memory) (a : Nat) (v : Byte) : Memory.get (Memory.set m a v) a = some v := by
  induction m with
  | nil => simp [Memory.set, Memory.get]
  | cons c m ih =>
    simp only [Memory.set]
    split
    · simp [Memory.get]
    · split
      · simp [Memory.get]
      · next h => simp [Memory.get, h, ih]

/-- Every other address reads as before. -/
theorem Memory.get_set_ne (m : Memory) {a b : Nat} (v : Byte) (h : b ≠ a) :
    Memory.get (Memory.set m a v) b = Memory.get m b := by
  induction m with
  | nil => simp [Memory.set, Memory.get, Ne.symm h]
  | cons c m ih =>
    simp only [Memory.set]
    split
    · simp [Memory.get, Ne.symm h]
    · split
      · next h' => simp [Memory.get, h', Ne.symm h]
      · simp [Memory.get, ih]

/-- A read after a write. -/
theorem Memory.get_set (m : Memory) (a b : Nat) (v : Byte) :
    Memory.get (Memory.set m a v) b = if b = a then some v else Memory.get m b := by
  split
  · next h => subst h; simp
  · next h => exact Memory.get_set_ne m v h

theorem Memory.wfAbove_set (m : Memory) (a lo : Nat) (v : Byte) (hm : Memory.wfAbove m lo = true) (h : lo < a) :
    Memory.wfAbove (Memory.set m a v) lo = true := by
  induction m generalizing lo with
  | nil => simpa [Memory.set, Memory.wfAbove] using h
  | cons c m ih =>
    simp only [Memory.wfAbove, Bool.and_eq_true, decide_eq_true_eq] at hm
    simp only [Memory.set]
    split
    · next h' => simp [Memory.wfAbove, h, h', hm.2]
    · split
      · next h' => subst h'; simp [Memory.wfAbove, hm]
      · next h1 h2 => simp [Memory.wfAbove, hm.1, ih c.1 hm.2 (by omega)]

/-- A write keeps the canonical form. -/
theorem Memory.wf_set (m : Memory) (a : Nat) (v : Byte) (hm : Memory.wf m = true) :
    Memory.wf (Memory.set m a v) = true := by
  cases m with
  | nil => rfl
  | cons c m =>
    simp only [Memory.wf] at hm
    simp only [Memory.set]
    split
    · next h => simp [Memory.wf, Memory.wfAbove, h, hm]
    · split
      · next h => subst h; simpa [Memory.wf] using hm
      · next h1 h2 => simpa [Memory.wf] using Memory.wfAbove_set m a c.1 v hm (by omega)

/-- Writing a word keeps the canonical form. -/
theorem Memory.wf_setWord (m : Memory) (w : Nat) (v : Word) (hm : Memory.wf m = true) :
    Memory.wf (Memory.setWord m w v) = true := Memory.wf_set _ _ _ (Memory.wf_set _ _ _ hm)

/-- The entries after a write are the old ones and the one written. -/
theorem Memory.mem_set (m : Memory) (a : Nat) (v : Byte) (c : Host.Cell) (h : c ∈ Memory.set m a v) :
    c = (a, v) ∨ c ∈ m := by
  induction m with
  | nil => simpa [Memory.set] using h
  | cons e m ih =>
    simp only [Memory.set] at h
    split at h
    · simpa using h
    · split at h
      · simp only [List.mem_cons] at h ⊢; tauto
      · simp only [List.mem_cons] at h ⊢
        rcases h with h | h
        · tauto
        · rcases ih h with h | h <;> tauto

/-- The bytes of a word written. -/
theorem Memory.get_setWord (m : Memory) (w a : Nat) (v : Word) : Memory.get (Memory.setWord m w v) a =
    if a = 2 * w + 1 then some (v.extractLsb' 8 8) else if a = 2 * w then some (v.extractLsb' 0 8)
    else Memory.get m a := by
  simp only [Memory.setWord, Memory.get_set]

/-- The canonical form has the same bytes. -/
@[simp] theorem Memory.get_canonical (m : Memory) (a : Nat) : Memory.get (Memory.canonical m) a = Memory.get m a := by
  induction m with
  | nil => rfl
  | cons c m ih =>
    rw [Memory.canonical, Memory.get_set, ih, Memory.get]
    simp only [eq_comm]

/-- The canonical form of any list is canonical. -/
theorem Memory.wf_canonical (m : Memory) : Memory.wf (Memory.canonical m) = true := by
  induction m with
  | nil => rfl
  | cons c m ih => exact Memory.wf_set _ _ _ ih

end Sys2Proof.Machine
end

