-- ==== Sys2Proof/Laws/State.lean ====
section
/-! SUPPORT. One lemma per field per update of the state. -/

namespace Sys2Proof.Machine

open Sys2Proof

variable (s : State)

/-! ### setReg -/

@[simp] theorem State.setReg_cfg (i : RegIx) (v : Byte) : (s.setReg i v).cfg = s.cfg := rfl
@[simp] theorem State.setReg_regs (i : RegIx) (v : Byte) : (s.setReg i v).regs = s.regs.set i.val v := rfl
@[simp] theorem State.setReg_pc (i : RegIx) (v : Byte) : (s.setReg i v).pc = s.pc := rfl
@[simp] theorem State.setReg_sreg (i : RegIx) (v : Byte) : (s.setReg i v).sreg = s.sreg := rfl
@[simp] theorem State.setReg_sp (i : RegIx) (v : Byte) : (s.setReg i v).sp = s.sp := rfl
@[simp] theorem State.setReg_rampX (i : RegIx) (v : Byte) : (s.setReg i v).rampX = s.rampX := rfl
@[simp] theorem State.setReg_rampY (i : RegIx) (v : Byte) : (s.setReg i v).rampY = s.rampY := rfl
@[simp] theorem State.setReg_rampZ (i : RegIx) (v : Byte) : (s.setReg i v).rampZ = s.rampZ := rfl
@[simp] theorem State.setReg_rampD (i : RegIx) (v : Byte) : (s.setReg i v).rampD = s.rampD := rfl
@[simp] theorem State.setReg_eind (i : RegIx) (v : Byte) : (s.setReg i v).eind = s.eind := rfl
@[simp] theorem State.setReg_prog (i : RegIx) (v : Byte) : (s.setReg i v).prog = s.prog := rfl
@[simp] theorem State.setReg_sram (i : RegIx) (v : Byte) : (s.setReg i v).sram = s.sram := rfl
@[simp] theorem State.setReg_dev (i : RegIx) (v : Byte) : (s.setReg i v).dev = s.dev := rfl
@[simp] theorem State.setReg_run (i : RegIx) (v : Byte) : (s.setReg i v).run = s.run := rfl
@[simp] theorem State.setReg_irqInhibit (i : RegIx) (v : Byte) : (s.setReg i v).irqInhibit = s.irqInhibit := rfl
@[simp] theorem State.setReg_resets (i : RegIx) (v : Byte) : (s.setReg i v).resets = s.resets := rfl

/-! ### setPair -/

@[simp] theorem State.setPair_cfg (i : RegIx) (v : Word) : (s.setPair i v).cfg = s.cfg := rfl
@[simp] theorem State.setPair_pc (i : RegIx) (v : Word) : (s.setPair i v).pc = s.pc := rfl
@[simp] theorem State.setPair_sreg (i : RegIx) (v : Word) : (s.setPair i v).sreg = s.sreg := rfl
@[simp] theorem State.setPair_sp (i : RegIx) (v : Word) : (s.setPair i v).sp = s.sp := rfl
@[simp] theorem State.setPair_rampX (i : RegIx) (v : Word) : (s.setPair i v).rampX = s.rampX := rfl
@[simp] theorem State.setPair_rampY (i : RegIx) (v : Word) : (s.setPair i v).rampY = s.rampY := rfl
@[simp] theorem State.setPair_rampZ (i : RegIx) (v : Word) : (s.setPair i v).rampZ = s.rampZ := rfl
@[simp] theorem State.setPair_rampD (i : RegIx) (v : Word) : (s.setPair i v).rampD = s.rampD := rfl
@[simp] theorem State.setPair_eind (i : RegIx) (v : Word) : (s.setPair i v).eind = s.eind := rfl
@[simp] theorem State.setPair_prog (i : RegIx) (v : Word) : (s.setPair i v).prog = s.prog := rfl
@[simp] theorem State.setPair_sram (i : RegIx) (v : Word) : (s.setPair i v).sram = s.sram := rfl
@[simp] theorem State.setPair_dev (i : RegIx) (v : Word) : (s.setPair i v).dev = s.dev := rfl
@[simp] theorem State.setPair_run (i : RegIx) (v : Word) : (s.setPair i v).run = s.run := rfl
@[simp] theorem State.setPair_irqInhibit (i : RegIx) (v : Word) : (s.setPair i v).irqInhibit = s.irqInhibit := rfl
@[simp] theorem State.setPair_resets (i : RegIx) (v : Word) : (s.setPair i v).resets = s.resets := rfl

/-! ### setPc -/

@[simp] theorem State.setPc_cfg (v : ProgAddr) : (s.setPc v).cfg = s.cfg := rfl
@[simp] theorem State.setPc_regs (v : ProgAddr) : (s.setPc v).regs = s.regs := rfl
@[simp] theorem State.setPc_pc (v : ProgAddr) : (s.setPc v).pc = wrapPc s.cfg v := rfl
@[simp] theorem State.setPc_sreg (v : ProgAddr) : (s.setPc v).sreg = s.sreg := rfl
@[simp] theorem State.setPc_sp (v : ProgAddr) : (s.setPc v).sp = s.sp := rfl
@[simp] theorem State.setPc_rampX (v : ProgAddr) : (s.setPc v).rampX = s.rampX := rfl
@[simp] theorem State.setPc_rampY (v : ProgAddr) : (s.setPc v).rampY = s.rampY := rfl
@[simp] theorem State.setPc_rampZ (v : ProgAddr) : (s.setPc v).rampZ = s.rampZ := rfl
@[simp] theorem State.setPc_rampD (v : ProgAddr) : (s.setPc v).rampD = s.rampD := rfl
@[simp] theorem State.setPc_eind (v : ProgAddr) : (s.setPc v).eind = s.eind := rfl
@[simp] theorem State.setPc_prog (v : ProgAddr) : (s.setPc v).prog = s.prog := rfl
@[simp] theorem State.setPc_sram (v : ProgAddr) : (s.setPc v).sram = s.sram := rfl
@[simp] theorem State.setPc_dev (v : ProgAddr) : (s.setPc v).dev = s.dev := rfl
@[simp] theorem State.setPc_run (v : ProgAddr) : (s.setPc v).run = s.run := rfl
@[simp] theorem State.setPc_irqInhibit (v : ProgAddr) : (s.setPc v).irqInhibit = s.irqInhibit := rfl
@[simp] theorem State.setPc_resets (v : ProgAddr) : (s.setPc v).resets = s.resets := rfl

/-! ### advance -/

@[simp] theorem State.advance_cfg (n : ProgAddr) : (s.advance n).cfg = s.cfg := rfl
@[simp] theorem State.advance_regs (n : ProgAddr) : (s.advance n).regs = s.regs := rfl
@[simp] theorem State.advance_pc (n : ProgAddr) : (s.advance n).pc = wrapPc s.cfg (s.pc + n) := rfl
@[simp] theorem State.advance_sreg (n : ProgAddr) : (s.advance n).sreg = s.sreg := rfl
@[simp] theorem State.advance_sp (n : ProgAddr) : (s.advance n).sp = s.sp := rfl
@[simp] theorem State.advance_rampX (n : ProgAddr) : (s.advance n).rampX = s.rampX := rfl
@[simp] theorem State.advance_rampY (n : ProgAddr) : (s.advance n).rampY = s.rampY := rfl
@[simp] theorem State.advance_rampZ (n : ProgAddr) : (s.advance n).rampZ = s.rampZ := rfl
@[simp] theorem State.advance_rampD (n : ProgAddr) : (s.advance n).rampD = s.rampD := rfl
@[simp] theorem State.advance_eind (n : ProgAddr) : (s.advance n).eind = s.eind := rfl
@[simp] theorem State.advance_prog (n : ProgAddr) : (s.advance n).prog = s.prog := rfl
@[simp] theorem State.advance_sram (n : ProgAddr) : (s.advance n).sram = s.sram := rfl
@[simp] theorem State.advance_dev (n : ProgAddr) : (s.advance n).dev = s.dev := rfl
@[simp] theorem State.advance_run (n : ProgAddr) : (s.advance n).run = s.run := rfl
@[simp] theorem State.advance_irqInhibit (n : ProgAddr) : (s.advance n).irqInhibit = s.irqInhibit := rfl
@[simp] theorem State.advance_resets (n : ProgAddr) : (s.advance n).resets = s.resets := rfl

/-! ### setSreg -/

@[simp] theorem State.setSreg_cfg (v : Byte) : (s.setSreg v).cfg = s.cfg := rfl
@[simp] theorem State.setSreg_regs (v : Byte) : (s.setSreg v).regs = s.regs := rfl
@[simp] theorem State.setSreg_pc (v : Byte) : (s.setSreg v).pc = s.pc := rfl
@[simp] theorem State.setSreg_sreg (v : Byte) : (s.setSreg v).sreg = v := rfl
@[simp] theorem State.setSreg_sp (v : Byte) : (s.setSreg v).sp = s.sp := rfl
@[simp] theorem State.setSreg_rampX (v : Byte) : (s.setSreg v).rampX = s.rampX := rfl
@[simp] theorem State.setSreg_rampY (v : Byte) : (s.setSreg v).rampY = s.rampY := rfl
@[simp] theorem State.setSreg_rampZ (v : Byte) : (s.setSreg v).rampZ = s.rampZ := rfl
@[simp] theorem State.setSreg_rampD (v : Byte) : (s.setSreg v).rampD = s.rampD := rfl
@[simp] theorem State.setSreg_eind (v : Byte) : (s.setSreg v).eind = s.eind := rfl
@[simp] theorem State.setSreg_prog (v : Byte) : (s.setSreg v).prog = s.prog := rfl
@[simp] theorem State.setSreg_sram (v : Byte) : (s.setSreg v).sram = s.sram := rfl
@[simp] theorem State.setSreg_dev (v : Byte) : (s.setSreg v).dev = s.dev := rfl
@[simp] theorem State.setSreg_run (v : Byte) : (s.setSreg v).run = s.run := rfl
@[simp] theorem State.setSreg_irqInhibit (v : Byte) : (s.setSreg v).irqInhibit = s.irqInhibit := rfl
@[simp] theorem State.setSreg_resets (v : Byte) : (s.setSreg v).resets = s.resets := rfl

/-! ### setSp -/

@[simp] theorem State.setSp_cfg (v : Word) : (s.setSp v).cfg = s.cfg := rfl
@[simp] theorem State.setSp_regs (v : Word) : (s.setSp v).regs = s.regs := rfl
@[simp] theorem State.setSp_pc (v : Word) : (s.setSp v).pc = s.pc := rfl
@[simp] theorem State.setSp_sreg (v : Word) : (s.setSp v).sreg = s.sreg := rfl
@[simp] theorem State.setSp_sp (v : Word) : (s.setSp v).sp = wrapSp s.cfg v := rfl
@[simp] theorem State.setSp_rampX (v : Word) : (s.setSp v).rampX = s.rampX := rfl
@[simp] theorem State.setSp_rampY (v : Word) : (s.setSp v).rampY = s.rampY := rfl
@[simp] theorem State.setSp_rampZ (v : Word) : (s.setSp v).rampZ = s.rampZ := rfl
@[simp] theorem State.setSp_rampD (v : Word) : (s.setSp v).rampD = s.rampD := rfl
@[simp] theorem State.setSp_eind (v : Word) : (s.setSp v).eind = s.eind := rfl
@[simp] theorem State.setSp_prog (v : Word) : (s.setSp v).prog = s.prog := rfl
@[simp] theorem State.setSp_sram (v : Word) : (s.setSp v).sram = s.sram := rfl
@[simp] theorem State.setSp_dev (v : Word) : (s.setSp v).dev = s.dev := rfl
@[simp] theorem State.setSp_run (v : Word) : (s.setSp v).run = s.run := rfl
@[simp] theorem State.setSp_irqInhibit (v : Word) : (s.setSp v).irqInhibit = s.irqInhibit := rfl
@[simp] theorem State.setSp_resets (v : Word) : (s.setSp v).resets = s.resets := rfl

/-! ### setHidden -/

@[simp] theorem State.setHidden_cfg (h : Nat) : (s.setHidden h).cfg = s.cfg := rfl
@[simp] theorem State.setHidden_regs (h : Nat) : (s.setHidden h).regs = s.regs := rfl
@[simp] theorem State.setHidden_pc (h : Nat) : (s.setHidden h).pc = s.pc := rfl
@[simp] theorem State.setHidden_sreg (h : Nat) : (s.setHidden h).sreg = s.sreg := rfl
@[simp] theorem State.setHidden_sp (h : Nat) : (s.setHidden h).sp = s.sp := rfl
@[simp] theorem State.setHidden_rampX (h : Nat) : (s.setHidden h).rampX = s.rampX := rfl
@[simp] theorem State.setHidden_rampY (h : Nat) : (s.setHidden h).rampY = s.rampY := rfl
@[simp] theorem State.setHidden_rampZ (h : Nat) : (s.setHidden h).rampZ = s.rampZ := rfl
@[simp] theorem State.setHidden_rampD (h : Nat) : (s.setHidden h).rampD = s.rampD := rfl
@[simp] theorem State.setHidden_eind (h : Nat) : (s.setHidden h).eind = s.eind := rfl
@[simp] theorem State.setHidden_prog (h : Nat) : (s.setHidden h).prog = s.prog := rfl
@[simp] theorem State.setHidden_sram (h : Nat) : (s.setHidden h).sram = s.sram := rfl
@[simp] theorem State.setHidden_run (h : Nat) : (s.setHidden h).run = s.run := rfl
@[simp] theorem State.setHidden_irqInhibit (h : Nat) : (s.setHidden h).irqInhibit = s.irqInhibit := rfl
@[simp] theorem State.setHidden_resets (h : Nat) : (s.setHidden h).resets = s.resets := rfl

/-! ### setDeviceByte -/

@[simp] theorem State.setDeviceByte_cfg (loc : IoLoc) (v : Byte) : (s.setDeviceByte loc v).cfg = s.cfg := rfl
@[simp] theorem State.setDeviceByte_regs (loc : IoLoc) (v : Byte) : (s.setDeviceByte loc v).regs = s.regs := rfl
@[simp] theorem State.setDeviceByte_pc (loc : IoLoc) (v : Byte) : (s.setDeviceByte loc v).pc = s.pc := rfl
@[simp] theorem State.setDeviceByte_sreg (loc : IoLoc) (v : Byte) : (s.setDeviceByte loc v).sreg = s.sreg := rfl
@[simp] theorem State.setDeviceByte_sp (loc : IoLoc) (v : Byte) : (s.setDeviceByte loc v).sp = s.sp := rfl
@[simp] theorem State.setDeviceByte_rampX (loc : IoLoc) (v : Byte) : (s.setDeviceByte loc v).rampX = s.rampX := rfl
@[simp] theorem State.setDeviceByte_rampY (loc : IoLoc) (v : Byte) : (s.setDeviceByte loc v).rampY = s.rampY := rfl
@[simp] theorem State.setDeviceByte_rampZ (loc : IoLoc) (v : Byte) : (s.setDeviceByte loc v).rampZ = s.rampZ := rfl
@[simp] theorem State.setDeviceByte_rampD (loc : IoLoc) (v : Byte) : (s.setDeviceByte loc v).rampD = s.rampD := rfl
@[simp] theorem State.setDeviceByte_eind (loc : IoLoc) (v : Byte) : (s.setDeviceByte loc v).eind = s.eind := rfl
@[simp] theorem State.setDeviceByte_prog (loc : IoLoc) (v : Byte) : (s.setDeviceByte loc v).prog = s.prog := rfl
@[simp] theorem State.setDeviceByte_sram (loc : IoLoc) (v : Byte) : (s.setDeviceByte loc v).sram = s.sram := rfl
@[simp] theorem State.setDeviceByte_run (loc : IoLoc) (v : Byte) : (s.setDeviceByte loc v).run = s.run := rfl
@[simp] theorem State.setDeviceByte_irqInhibit (loc : IoLoc) (v : Byte) : (s.setDeviceByte loc v).irqInhibit = s.irqInhibit := rfl
@[simp] theorem State.setDeviceByte_resets (loc : IoLoc) (v : Byte) : (s.setDeviceByte loc v).resets = s.resets := rfl

/-! ### writeResult -/

@[simp] theorem State.writeResult_cfg (d : RegIx) (res sreg : Byte) : (s.writeResult d res sreg).cfg = s.cfg := rfl
@[simp] theorem State.writeResult_regs (d : RegIx) (res sreg : Byte) : (s.writeResult d res sreg).regs = s.regs.set d.val res := rfl
@[simp] theorem State.writeResult_pc (d : RegIx) (res sreg : Byte) : (s.writeResult d res sreg).pc = wrapPc s.cfg (s.pc + 1) := rfl
@[simp] theorem State.writeResult_sreg (d : RegIx) (res sreg : Byte) : (s.writeResult d res sreg).sreg = sreg := rfl
@[simp] theorem State.writeResult_sp (d : RegIx) (res sreg : Byte) : (s.writeResult d res sreg).sp = s.sp := rfl
@[simp] theorem State.writeResult_rampX (d : RegIx) (res sreg : Byte) : (s.writeResult d res sreg).rampX = s.rampX := rfl
@[simp] theorem State.writeResult_rampY (d : RegIx) (res sreg : Byte) : (s.writeResult d res sreg).rampY = s.rampY := rfl
@[simp] theorem State.writeResult_rampZ (d : RegIx) (res sreg : Byte) : (s.writeResult d res sreg).rampZ = s.rampZ := rfl
@[simp] theorem State.writeResult_rampD (d : RegIx) (res sreg : Byte) : (s.writeResult d res sreg).rampD = s.rampD := rfl
@[simp] theorem State.writeResult_eind (d : RegIx) (res sreg : Byte) : (s.writeResult d res sreg).eind = s.eind := rfl
@[simp] theorem State.writeResult_prog (d : RegIx) (res sreg : Byte) : (s.writeResult d res sreg).prog = s.prog := rfl
@[simp] theorem State.writeResult_sram (d : RegIx) (res sreg : Byte) : (s.writeResult d res sreg).sram = s.sram := rfl
@[simp] theorem State.writeResult_dev (d : RegIx) (res sreg : Byte) : (s.writeResult d res sreg).dev = s.dev := rfl
@[simp] theorem State.writeResult_run (d : RegIx) (res sreg : Byte) : (s.writeResult d res sreg).run = s.run := rfl
@[simp] theorem State.writeResult_irqInhibit (d : RegIx) (res sreg : Byte) : (s.writeResult d res sreg).irqInhibit = s.irqInhibit := rfl
@[simp] theorem State.writeResult_resets (d : RegIx) (res sreg : Byte) : (s.writeResult d res sreg).resets = s.resets := rfl

/-! ### writeProduct -/

@[simp] theorem State.writeProduct_cfg (res : Word) (sreg : Byte) : (s.writeProduct res sreg).cfg = s.cfg := rfl
@[simp] theorem State.writeProduct_pc (res : Word) (sreg : Byte) : (s.writeProduct res sreg).pc = wrapPc s.cfg (s.pc + 1) := rfl
@[simp] theorem State.writeProduct_sreg (res : Word) (sreg : Byte) : (s.writeProduct res sreg).sreg = sreg := rfl
@[simp] theorem State.writeProduct_sp (res : Word) (sreg : Byte) : (s.writeProduct res sreg).sp = s.sp := rfl
@[simp] theorem State.writeProduct_rampX (res : Word) (sreg : Byte) : (s.writeProduct res sreg).rampX = s.rampX := rfl
@[simp] theorem State.writeProduct_rampY (res : Word) (sreg : Byte) : (s.writeProduct res sreg).rampY = s.rampY := rfl
@[simp] theorem State.writeProduct_rampZ (res : Word) (sreg : Byte) : (s.writeProduct res sreg).rampZ = s.rampZ := rfl
@[simp] theorem State.writeProduct_rampD (res : Word) (sreg : Byte) : (s.writeProduct res sreg).rampD = s.rampD := rfl
@[simp] theorem State.writeProduct_eind (res : Word) (sreg : Byte) : (s.writeProduct res sreg).eind = s.eind := rfl
@[simp] theorem State.writeProduct_prog (res : Word) (sreg : Byte) : (s.writeProduct res sreg).prog = s.prog := rfl
@[simp] theorem State.writeProduct_sram (res : Word) (sreg : Byte) : (s.writeProduct res sreg).sram = s.sram := rfl
@[simp] theorem State.writeProduct_dev (res : Word) (sreg : Byte) : (s.writeProduct res sreg).dev = s.dev := rfl
@[simp] theorem State.writeProduct_run (res : Word) (sreg : Byte) : (s.writeProduct res sreg).run = s.run := rfl
@[simp] theorem State.writeProduct_irqInhibit (res : Word) (sreg : Byte) : (s.writeProduct res sreg).irqInhibit = s.irqInhibit := rfl
@[simp] theorem State.writeProduct_resets (res : Word) (sreg : Byte) : (s.writeProduct res sreg).resets = s.resets := rfl

/-! ### Registers read back -/

/-- Registers are the entries of `regs`. -/
theorem State.reg_eq (i : RegIx) : s.reg i = s.regs[i.val] := rfl

/-- Two states with the same registers. -/
theorem State.reg_congr {s t : State} (h : t.regs = s.regs) (i : RegIx) : t.reg i = s.reg i := by
  simp only [State.reg_eq, h]

/-- States with the same registers by number have the same register file. -/
theorem State.regs_ext {s t : State} (h : ∀ i, t.reg i = s.reg i) : t.regs = s.regs := by
  refine Vector.ext fun i hi => ?_
  exact h ⟨i, hi⟩

@[simp] theorem State.setReg_reg_self (i : RegIx) (v : Byte) : (s.setReg i v).reg i = v := by
  simp [State.reg_eq]

/-- Another register keeps its value. -/
theorem State.setReg_reg_ne {i j : RegIx} (v : Byte) (h : j ≠ i) : (s.setReg i v).reg j = s.reg j := by
  have : i.val ≠ j.val := fun e => h (Fin.ext e.symm)
  simp [State.reg_eq, this]

/-- A register after a write. -/
theorem State.setReg_reg (i j : RegIx) (v : Byte) : (s.setReg i v).reg j = if j = i then v else s.reg j := by
  split
  · next h => subst h; simp
  · next h => exact s.setReg_reg_ne v h

@[simp] theorem State.setPc_reg (v : ProgAddr) (i : RegIx) : (s.setPc v).reg i = s.reg i := rfl
@[simp] theorem State.advance_reg (n : ProgAddr) (i : RegIx) : (s.advance n).reg i = s.reg i := rfl
@[simp] theorem State.setSreg_reg (v : Byte) (i : RegIx) : (s.setSreg v).reg i = s.reg i := rfl
@[simp] theorem State.setSp_reg (v : Word) (i : RegIx) : (s.setSp v).reg i = s.reg i := rfl
@[simp] theorem State.setHidden_reg (h : Nat) (i : RegIx) : (s.setHidden h).reg i = s.reg i := rfl
@[simp] theorem State.setDeviceByte_reg (loc : IoLoc) (v : Byte) (i : RegIx) :
    (s.setDeviceByte loc v).reg i = s.reg i := rfl

@[simp] theorem State.writeResult_reg (d : RegIx) (res sreg : Byte) (i : RegIx) :
    (s.writeResult d res sreg).reg i = if i = d then res else s.reg i := (s.setSreg sreg).setReg_reg d i res

/-- The two registers of a pair are different. -/
theorem RegIx.succ_ne (i : RegIx) : i + 1 ≠ i := by revert i; decide

/-- A register after a pair is written. -/
theorem State.setPair_reg (i j : RegIx) (v : Word) : (s.setPair i v).reg j =
    if j = i + 1 then v.extractLsb' 8 8 else if j = i then v.extractLsb' 0 8 else s.reg j := by
  simp only [State.setPair, State.setReg_reg]

@[simp] theorem State.writeProduct_reg (res : Word) (sreg : Byte) (j : RegIx) : (s.writeProduct res sreg).reg j =
    if j = 1 then res.extractLsb' 8 8 else if j = 0 then res.extractLsb' 0 8 else s.reg j :=
  (s.setSreg sreg).setPair_reg 0 j res

/-- A pair as a number. -/
theorem State.pair_toNat (i : RegIx) : (s.pair i).toNat = (s.reg (i + 1)).toNat * 256 + (s.reg i).toNat := by
  exact append_toNat _ _

/-- The halves of a 16-bit value. -/
theorem Word.extract_low (v : Word) : (v.extractLsb' 0 8).toNat = v.toNat % 256 := by
  rw [extract_toNat]; omega

theorem Word.extract_high (v : Word) : (v.extractLsb' 8 8).toNat = v.toNat / 256 := by
  have := v.isLt
  rw [extract_toNat]; omega

/-- A pair written reads back. -/
theorem State.setPair_toNat (i : RegIx) (v : Word) :
    ((s.setPair i v).reg (i + 1)).toNat * 256 + ((s.setPair i v).reg i).toNat = v.toNat := by
  have := v.isLt
  rw [State.setPair_reg, State.setPair_reg, if_pos rfl, if_neg (RegIx.succ_ne i).symm, if_pos rfl, Word.extract_low,
    Word.extract_high]
  omega

/-! ### The program counter -/

/-- 2^PC_BITS divides 2^22. -/
theorem pcBits_le (w : PcWidth) : pcBits w ≤ 22 := by
  cases w with
  | upTo16 n => simp only [pcBits]; omega
  | bits22 => exact Nat.le_refl _

/-- The reduced PC as a number (10_state.md R25). -/
theorem wrapPc_toNat (c : Config) (v : ProgAddr) : (wrapPc c v).toNat = v.toNat % 2 ^ pcBits c.pcWidth := by
  have h1 : v.toNat % 2 ^ pcBits c.pcWidth ≤ v.toNat := Nat.mod_le _ _
  have h2 := v.isLt
  simp only [wrapPc, BitVec.toNat_ofNat]
  exact Nat.mod_eq_of_lt (by omega)

/-- Reducing modulo 2^22 first makes no difference. -/
theorem mod_pcBits (c : Config) (n : Nat) : n % 2 ^ 22 % 2 ^ pcBits c.pcWidth = n % 2 ^ pcBits c.pcWidth :=
  Nat.mod_mod_of_dvd n (Nat.pow_dvd_pow 2 (pcBits_le _))

/-- The PC after `advance`. -/
theorem State.advance_pc_toNat (n : ProgAddr) :
    (s.advance n).pc.toNat = (s.pc.toNat + n.toNat) % 2 ^ pcBits s.cfg.pcWidth := by
  rw [State.advance_pc, wrapPc_toNat, BitVec.toNat_add, mod_pcBits]

end Sys2Proof.Machine
end

