-- ==== Sys2Proof/Laws/Frames.lean ====
section
/-! SUPPORT. What the endings that instructions share leave unchanged, and where they put the PC. -/

namespace Sys2Proof.Machine

open Sys2Proof

/-! ### Bytes -/

/-- R140's formula for Z says that the byte is zero. -/
theorem allClear_eq (v : Byte) : allClear v = decide (v = 0) := by
  revert v; decide

theorem getBit_and (v w : Byte) (i : BitIx) : getBit (v &&& w) i = (getBit v i && getBit w i) := by simp [getBit]

theorem getBit_or (v w : Byte) (i : BitIx) : getBit (v ||| w) i = (getBit v i || getBit w i) := by simp [getBit]

theorem getBit_xor (v w : Byte) (i : BitIx) : getBit (v ^^^ w) i = (getBit v i ^^ getBit w i) := by simp [getBit]

theorem getBit_not (v : Byte) (i : BitIx) : getBit (~~~v) i = !getBit v i := by
  have := i.isLt
  simp [getBit, this]

/-! ### The PC -/

/-- `advance n` puts the PC `n` words on, `n` read as a signed number. -/
theorem pcPlus_advance (s t : State) (n : ProgAddr) (h : t.pc = (s.advance n).pc) : PcPlus s t n.toInt := by
  rw [PcPlus, h, State.advance_pc_toNat]
  have hn := BitVec.toInt_eq_toNat_cond n
  obtain ⟨q, hq⟩ := Nat.pow_dvd_pow 2 (pcBits_le s.cfg.pcWidth)
  push_cast
  split at hn
  · rw [hn]
  · rw [hn, show ((2 ^ 22 : Nat) : Int) = ((2 ^ pcBits s.cfg.pcWidth : Nat) : Int) * q by exact_mod_cast hq,
      ← Int.add_sub_assoc]
    push_cast
    exact (Int.sub_mul_emod_self_left _ _ _).symm

theorem pcPlus_advance_one (s t : State) (h : t.pc = (s.advance 1).pc) : PcPlus s t 1 := by
  simpa using pcPlus_advance s t 1 h

theorem pcPlus_advance_two (s t : State) (h : t.pc = (s.advance 2).pc) : PcPlus s t 2 := by
  simpa using pcPlus_advance s t 2 h

theorem pcPlus_advance_three (s t : State) (h : t.pc = (s.advance 3).pc) : PcPlus s t 3 := by
  simpa using pcPlus_advance s t 3 h

/-- Sign extension to the width of the PC keeps the number, and one more does not overflow. -/
theorem signExtend_succ_toInt {w : Nat} (k : BitVec w) (hw : w ≤ 20) (h0 : 0 < w) :
    (k.signExtend 22 + 1).toInt = k.toInt + 1 := by
  have hk := BitVec.toInt_lt (x := k); have hk' := BitVec.le_toInt (x := k)
  have hp : (2 : Int) ^ (w - 1) ≤ 2 ^ 19 := by
    exact_mod_cast Nat.pow_le_pow_right (by decide) (by omega : w - 1 ≤ 19)
  rw [BitVec.toInt_add, BitVec.toInt_signExtend_of_le (by omega)]
  rw [show BitVec.toInt (1 : BitVec 22) = 1 from rfl, Int.bmod_def]
  norm_num only
  split <;> omega

/-- The word after the PC, as fetch and skip compute it. -/
theorem pcPlus_one_toNat (s : State) : (s.pcPlus 1).toNat = nextWord s := by
  rw [nextWord, show s.pcPlus 1 = (s.advance 1).pc from rfl, State.advance_pc_toNat]; rfl

/-! ### Memory and registers -/

/-- States that agree in the memories, the device and the reset count read the same bytes. -/
theorem memoryKept_of_eq {s t : State} (sram : t.sram = s.sram) (prog : t.prog = s.prog) (dev : t.dev = s.dev)
    (resets : t.resets = s.resets) : MemoryKept s t := by
  refine ⟨fun a => ?_, fun a => ?_, fun loc => ?_⟩
  · simp only [State.sramByte, sram, resets]
  · simp only [State.progByte, prog]
  · simp only [State.deviceByte, dev, resets]

/-- The ending of a register instruction. -/
theorem onlyRegisters_writeResult (s : State) (d : RegIx) (res sreg : Byte) :
    OnlyRegisters s (s.writeResult d res sreg) [d] := by
  refine ⟨fun i hi => ?_, memoryKept_of_eq rfl rfl rfl rfl, rfl⟩
  rw [State.writeResult_reg, if_neg (by simpa using hi)]

/-- The ending of a register instruction without flags. -/
theorem onlyRegisters_setReg (s : State) (d : RegIx) (v : Byte) : OnlyRegisters s ((s.setReg d v).advance 1) [d] := by
  refine ⟨fun i hi => ?_, memoryKept_of_eq rfl rfl rfl rfl, rfl⟩
  exact State.setReg_reg_ne s v (by simpa using hi)

/-- The ending of a pair instruction without flags. -/
theorem onlyRegisters_setPair (s : State) (d : RegIx) (v : Word) :
    OnlyRegisters s ((s.setPair d v).advance 1) [d, d + 1] := by
  refine ⟨fun i hi => ?_, memoryKept_of_eq rfl rfl rfl rfl, rfl⟩
  simp only [List.mem_cons, List.not_mem_nil, or_false, not_or] at hi
  exact (State.setPair_reg s d i v).trans (by rw [if_neg hi.2, if_neg hi.1])

/-- The ending of a pair instruction. -/
theorem onlyRegisters_setPair_sreg (s : State) (d : RegIx) (v : Word) (sreg : Byte) :
    OnlyRegisters s (((s.setSreg sreg).setPair d v).advance 1) [d, d + 1] := by
  refine ⟨fun i hi => ?_, memoryKept_of_eq rfl rfl rfl rfl, rfl⟩
  simp only [List.mem_cons, List.not_mem_nil, or_false, not_or] at hi
  exact (State.setPair_reg _ d i v).trans (by rw [if_neg hi.2, if_neg hi.1]; rfl)

/-- The ending of a compare or a flag instruction. -/
theorem onlySreg_setSreg (s : State) (sreg : Byte) : OnlySreg s ((s.setSreg sreg).advance 1) :=
  ⟨fun _ => rfl, memoryKept_of_eq rfl rfl rfl rfl, rfl⟩

/-- A new PC alone. -/
theorem onlyPc_setPc (s : State) (v : ProgAddr) : OnlyPc s (s.setPc v) :=
  ⟨fun _ => rfl, rfl, memoryKept_of_eq rfl rfl rfl rfl, rfl⟩

/-- What a conditional branch does. -/
theorem branchIf_spec (s : State) (cond : Bool) (k : BitVec 7) :
    OnlyPc s (s.branchIf cond k) ∧ PcPlus s (s.branchIf cond k) (if cond then k.toInt + 1 else 1) := by
  cases cond
  · exact ⟨onlyPc_setPc _ _, pcPlus_advance_one _ _ rfl⟩
  · have h := pcPlus_advance s (s.branchIf true k) (k.signExtend 22 + 1) rfl
    rw [signExtend_succ_toInt k (by decide) (by decide)] at h
    exact ⟨onlyPc_setPc _ _, h⟩

end Sys2Proof.Machine
end

