-- ==== Sys2Proof/Laws/Ops.lean ====
section
/-! SUPPORT. One lemma per shared operation that says what it can do: the device, the I/O and data space, the stack, skips,
interrupt entry and return. -/

namespace Sys2Proof.Machine

open Sys2Proof

/-! ### What every access keeps -/

/-- The state that no access to registers, I/O, data space or stack changes. -/
structure ControlKept (s t : State) : Prop where
  cfg : t.cfg = s.cfg
  prog : t.prog = s.prog
  run : t.run = s.run
  irqInhibit : t.irqInhibit = s.irqInhibit
  resets : t.resets = s.resets
  requests : t.dev.requests = s.dev.requests
  inputs : t.dev.inputs = s.dev.inputs
  resetRequested : t.dev.resetRequested = s.dev.resetRequested
  sleepEnabled : t.dev.sleepEnabled = s.dev.sleepEnabled
  pageBuffer : t.dev.pageBuffer = s.dev.pageBuffer
  lockBits : t.dev.lockBits = s.dev.lockBits

theorem ControlKept.refl (s : State) : ControlKept s s := ⟨rfl, rfl, rfl, rfl, rfl, rfl, rfl, rfl, rfl, rfl, rfl⟩

theorem ControlKept.trans {s t u : State} (h : ControlKept s t) (k : ControlKept t u) : ControlKept s u :=
  ⟨k.cfg.trans h.cfg, k.prog.trans h.prog, k.run.trans h.run, k.irqInhibit.trans h.irqInhibit, k.resets.trans h.resets,
    k.requests.trans h.requests, k.inputs.trans h.inputs, k.resetRequested.trans h.resetRequested,
    k.sleepEnabled.trans h.sleepEnabled, k.pageBuffer.trans h.pageBuffer, k.lockBits.trans h.lockBits⟩

/-- The part of the invariant that accesses could break. -/
structure DataInv (s : State) : Prop where
  sram : Memory.wf s.sram = true
  bytes : Memory.wf s.dev.bytes = true
  mapped : ∀ c ∈ s.sram, ∃ a, place s.cfg a = .sram c.1
  absent : ∀ r, cpuRegExists s.cfg r = false → s.cpuReg r = 0

/-- What an access keeps: the control state, and the invariant's data part. -/
structure Keeps (s t : State) : Prop where
  control : ControlKept s t
  data : DataInv s → DataInv t

theorem Keeps.refl (s : State) : Keeps s s := ⟨.refl s, id⟩

theorem Keeps.trans {s t u : State} (h : Keeps s t) (k : Keeps t u) : Keeps s u :=
  ⟨h.control.trans k.control, k.data ∘ h.data⟩

/-- A change of general registers, SREG and PC only. -/
theorem Keeps.of_registers (s : State) (regs : Vector Byte 32) (sreg : Byte) (pc : ProgAddr) :
    Keeps s { s with regs := regs, sreg := sreg, pc := pc } := by
  refine ⟨⟨rfl, rfl, rfl, rfl, rfl, rfl, rfl, rfl, rfl, rfl, rfl⟩,
    fun h => ⟨h.sram, h.bytes, h.mapped, fun r hr => ?_⟩⟩
  have := h.absent r hr
  cases r <;> first | exact this | simp [cpuRegExists] at hr

theorem Keeps.setReg (s : State) (d : RegIx) (v : Byte) : Keeps s (s.setReg d v) := .of_registers s _ _ _

theorem Keeps.setPair (s : State) (d : RegIx) (v : Word) : Keeps s (s.setPair d v) := .of_registers s _ _ _

theorem Keeps.setBlock (s : State) (d : RegIx) (v : BitVec 64) : Keeps s (s.setBlock d v) :=
  (((((((Keeps.setReg s _ _).trans (.setReg _ _ _)).trans (.setReg _ _ _)).trans (.setReg _ _ _)).trans
    (.setReg _ _ _)).trans (.setReg _ _ _)).trans (.setReg _ _ _)).trans (.setReg _ _ _)

theorem Keeps.setSreg (s : State) (v : Byte) : Keeps s (s.setSreg v) := .of_registers s _ _ _

theorem Keeps.setPc (s : State) (v : ProgAddr) : Keeps s (s.setPc v) := .of_registers s _ _ _

theorem Keeps.advance (s : State) (n : ProgAddr) : Keeps s (s.advance n) := .of_registers s _ _ _

/-! ### The stack pointer -/

/-- Reducing twice is reducing once. -/
theorem wrapSp_wrapSp (c : Config) (v : Word) : wrapSp c (wrapSp c v) = wrapSp c v := by
  unfold wrapSp; split <;> simp [BitVec.and_assoc]

/-- The reduced stack pointer as a number (10_state.md R29). -/
theorem wrapSp_toNat (c : Config) (v : Word) :
    (wrapSp c v).toNat = v.toNat % (match c.spWidth with | .bits8 => 256 | .bits16 => 65536) := by
  unfold wrapSp
  cases c.spWidth
  · exact (BitVec.toNat_and v 0x00FF).trans (Nat.and_two_pow_sub_one_eq_mod v.toNat 8)
  · exact (Nat.mod_eq_of_lt v.isLt).symm

/-- Adding to a reduced stack pointer and reducing is adding and reducing. -/
theorem wrapSp_add (c : Config) (v n : Word) : wrapSp c (wrapSp c v + n) = wrapSp c (v + n) := by
  refine BitVec.eq_of_toNat_eq ?_
  simp only [wrapSp_toNat, BitVec.toNat_add]
  split <;> omega

theorem wrapSp_sub (c : Config) (v n : Word) : wrapSp c (wrapSp c v - n) = wrapSp c (v - n) := by
  rw [BitVec.sub_eq_add_neg, wrapSp_add, ← BitVec.sub_eq_add_neg]

/-- With an 8-bit stack pointer the high byte is zero. -/
theorem wrapSp_high (c : Config) (v : Word) (h : cpuRegExists c .sph = false) : (wrapSp c v).extractLsb' 8 8 = 0 := by
  have h8 : c.spWidth = .bits8 := by
    cases e : c.spWidth <;> simp_all [cpuRegExists]
  have := v.isLt
  refine BitVec.eq_of_toNat_eq ?_
  rw [Word.extract_high, wrapSp_toNat, h8]
  show v.toNat % 256 / 256 = 0
  omega

theorem Keeps.setSp (s : State) (v : Word) : Keeps s (s.setSp v) := by
  refine ⟨⟨rfl, rfl, rfl, rfl, rfl, rfl, rfl, rfl, rfl, rfl, rfl⟩,
    fun h => ⟨h.sram, h.bytes, h.mapped, fun r hr => ?_⟩⟩
  have := h.absent r hr
  cases r <;> first | exact this | exact wrapSp_high _ _ hr | simp [cpuRegExists] at hr

/-! ### The device -/

/-- A device read changes the device's private state only. -/
theorem devRead_snd (loc : IoLoc) (s : State) : (devRead loc s).2 = s.setHidden (devRead loc s).2.dev.hidden := by
  unfold devRead; split <;> rfl

/-- A device write changes the device's bytes and private state only. -/
theorem devWrite_eq (loc : IoLoc) (v : Byte) (s : State) : devWrite loc v s =
    { s with dev := { s.dev with bytes := (devWrite loc v s).dev.bytes, hidden := (devWrite loc v s).dev.hidden } } := by
  unfold devWrite; split <;> rfl

theorem Keeps.setHidden (s : State) (h : Nat) : Keeps s (s.setHidden h) :=
  ⟨⟨rfl, rfl, rfl, rfl, rfl, rfl, rfl, rfl, rfl, rfl, rfl⟩, fun k => ⟨k.sram, k.bytes, k.mapped, fun r => by
    cases r <;> exact k.absent _⟩⟩

theorem Keeps.setDeviceByte (s : State) (loc : IoLoc) (v : Byte) : Keeps s (s.setDeviceByte loc v) :=
  ⟨⟨rfl, rfl, rfl, rfl, rfl, rfl, rfl, rfl, rfl, rfl, rfl⟩, fun k => ⟨k.sram, Memory.wf_set _ _ _ k.bytes, k.mapped,
    fun r => by cases r <;> exact k.absent _⟩⟩

theorem Keeps.devRead (loc : IoLoc) (s : State) : Keeps s (devRead loc s).2 := by
  rw [devRead_snd]; exact .setHidden s _

theorem Keeps.devWrite (loc : IoLoc) (v : Byte) (s : State) : Keeps s (devWrite loc v s) := by
  unfold Machine.devWrite; split
  · exact .setDeviceByte s loc v
  · exact .setHidden s _

theorem Keeps.devWdr (s : State) : Keeps s (devWdr s) := by
  unfold Machine.devWdr; split
  · exact .refl s
  · exact .setHidden s _

/-- SBI and CBI on the device. -/
theorem Keeps.devSetBit (A : BitVec 5) (b : BitIx) (s : State) : Keeps s (devSetBit A b s) := by
  unfold Machine.devSetBit; split
  · exact .setDeviceByte s _ _
  · exact .setHidden s _

theorem Keeps.devClrBit (A : BitVec 5) (b : BitIx) (s : State) : Keeps s (devClrBit A b s) := by
  unfold Machine.devClrBit; split
  · exact .setDeviceByte s _ _
  · exact .setHidden s _

/-- The locations of the reference device are different bytes (log 24). -/
theorem IoLoc.key_inj {l m : IoLoc} (h : IoLoc.key l = IoLoc.key m) : l = m := by
  cases l with
  | io A =>
    cases m with
    | io B => exact congrArg IoLoc.io (BitVec.eq_of_toNat_eq h)
    | ext e => have := A.isLt; simp only [IoLoc.key] at h; omega
  | ext e =>
    cases m with
    | io B => have := B.isLt; simp only [IoLoc.key] at h; omega
    | ext f => simp only [IoLoc.key] at h; exact congrArg IoLoc.ext (by omega)

/-- A byte of the reference device after a write. -/
theorem State.setDeviceByte_deviceByte (s : State) (loc o : IoLoc) (v : Byte) :
    (s.setDeviceByte loc v).deviceByte o = if o = loc then v else s.deviceByte o := by
  show (Memory.get (Memory.set s.dev.bytes _ v) _).getD _ = _
  rw [Memory.get_set]
  by_cases h : o = loc
  · subst h; simp
  · rw [if_neg h, if_neg fun e => h (IoLoc.key_inj e)]; rfl

/-! ### I/O space -/

/-- The register found at an I/O location exists. -/
theorem cpuRegAt_exists {c : Config} {A : BitVec 6} {r : CpuReg} (h : cpuRegAt c A = some r) : cpuRegExists c r = true := by
  have := List.find?_some h
  simp only [Bool.and_eq_true] at this
  exact this.2

/-- The CPU register at an I/O location, spelled out (20_memory.md R69). -/
theorem cpuRegAt_eq (c : Config) (A : BitVec 6) : cpuRegAt c A =
    if A = c.ioSreg then some .sreg
    else if A = c.ioSpl then some .spl
    else if A = c.ioSph ∧ c.spWidth = .bits16 then some .sph
    else if A = c.ioRampD ∧ c.dataWidth = .bits24 then some .rampD
    else if A = c.ioRampX ∧ c.dataWidth = .bits24 then some .rampX
    else if A = c.ioRampY ∧ c.dataWidth = .bits24 then some .rampY
    else if A = c.ioRampZ ∧ (c.dataWidth = .bits24 ∨ c.progGt64k = true) then some .rampZ
    else if A = c.ioEind ∧ c.pcWidth = .bits22 then some .eind
    else none := by
  have key : ∀ (p : CpuReg → Bool) (l : List CpuReg) (y : CpuReg) (P : Prop) [Decidable P], (p y = true ↔ P) →
      (y :: l).find? p = if P then some y else l.find? p := by
    intro p l y P _ h
    by_cases hP : P
    · rw [if_pos hP, List.find?_cons_of_pos (h.2 hP)]
    · rw [if_neg hP, List.find?_cons_of_neg (fun k => hP (h.1 k))]
  have found : ∀ r : CpuReg, ((decide (A = cpuRegAddr c r) && cpuRegExists c r) = true ↔
      A = cpuRegAddr c r ∧ cpuRegExists c r = true) := fun r => by rw [Bool.and_eq_true, decide_eq_true_eq]
  rw [cpuRegAt, key _ _ .sreg (A = c.ioSreg) ((found _).trans (by simp [cpuRegAddr, cpuRegExists])),
    key _ _ .spl (A = c.ioSpl) ((found _).trans (by simp [cpuRegAddr, cpuRegExists])),
    key _ _ .sph (A = c.ioSph ∧ c.spWidth = .bits16) ((found _).trans (by simp [cpuRegAddr, cpuRegExists])),
    key _ _ .rampD (A = c.ioRampD ∧ c.dataWidth = .bits24) ((found _).trans (by simp [cpuRegAddr, cpuRegExists])),
    key _ _ .rampX (A = c.ioRampX ∧ c.dataWidth = .bits24) ((found _).trans (by simp [cpuRegAddr, cpuRegExists])),
    key _ _ .rampY (A = c.ioRampY ∧ c.dataWidth = .bits24) ((found _).trans (by simp [cpuRegAddr, cpuRegExists])),
    key _ _ .rampZ (A = c.ioRampZ ∧ (c.dataWidth = .bits24 ∨ c.progGt64k = true))
      ((found _).trans (by simp [cpuRegAddr, cpuRegExists])),
    key _ _ .eind (A = c.ioEind ∧ c.pcWidth = .bits22) ((found _).trans (by simp [cpuRegAddr, cpuRegExists, longPc])),
    List.find?_nil]

/-- A CPU register write leaves the registers, the PC and the device alone. -/
theorem State.setCpuReg_eq (s : State) (r : CpuReg) (v : Byte) : s.setCpuReg r v =
    { s with sreg := (s.setCpuReg r v).sreg, sp := (s.setCpuReg r v).sp, rampX := (s.setCpuReg r v).rampX,
             rampY := (s.setCpuReg r v).rampY, rampZ := (s.setCpuReg r v).rampZ, rampD := (s.setCpuReg r v).rampD,
             eind := (s.setCpuReg r v).eind } := by
  cases r <;> rfl

/-- The register written reads back, and no other that exists changes. -/
theorem State.setCpuReg_cpuReg (s : State) (r q : CpuReg) (v : Byte) (hr : cpuRegExists s.cfg r = true)
    (hq : cpuRegExists s.cfg q = true) : (s.setCpuReg r v).cpuReg q = if q = r then v else s.cpuReg q := by
  have low : ∀ x y : Byte, (x ++ y).extractLsb' 0 8 = y := fun x y => BitVec.extractLsb'_append_eq_right
  have high : ∀ x y : Byte, (x ++ y).extractLsb' 8 8 = x := fun x y => BitVec.extractLsb'_append_eq_left
  have wl : ∀ w : Word, (wrapSp s.cfg w).extractLsb' 0 8 = w.extractLsb' 0 8 := fun w => by
    refine BitVec.eq_of_toNat_eq ?_
    rw [Word.extract_low, Word.extract_low, wrapSp_toNat]
    split <;> omega
  have wh : cpuRegExists s.cfg .sph = true → ∀ w : Word, wrapSp s.cfg w = w := fun h w => by
    have : s.cfg.spWidth = .bits16 := by simpa [cpuRegExists] using h
    simp [wrapSp, this]
  cases r <;> cases q <;>
    simp only [State.setCpuReg, State.cpuReg, State.setSp, reduceCtorEq, if_false, if_true]
  · rw [wl, low]
  · rw [wh hq, high]
  · rw [wl, low]
  · rw [wh hr, high]

theorem Keeps.setCpuReg (s : State) (r : CpuReg) (v : Byte) (hr : cpuRegExists s.cfg r = true) :
    Keeps s (s.setCpuReg r v) := by
  refine ⟨by cases r <;> exact ⟨rfl, rfl, rfl, rfl, rfl, rfl, rfl, rfl, rfl, rfl, rfl⟩,
    fun h => ⟨by cases r <;> exact h.sram, by cases r <;> exact h.bytes,
    by cases r <;> exact h.mapped, fun q hq => ?_⟩⟩
  have hc : (s.setCpuReg r v).cfg = s.cfg := by cases r <;> rfl
  rw [hc] at hq
  have h0 := h.absent q hq
  cases r <;> cases q <;>
    first
      | exact h0
      | exact wrapSp_high _ _ hq
      | (rw [hq] at hr; exact absurd hr (by decide))
      | simp [cpuRegExists] at hq

/-- `IoRead` changes the device's private state only. -/
theorem ioRead_snd (A : BitVec 6) (s : State) : (ioRead A s).2 = s.setHidden (ioRead A s).2.dev.hidden := by
  unfold ioRead; split
  · rfl
  · exact devRead_snd _ s

theorem Keeps.ioRead (A : BitVec 6) (s : State) : Keeps s (ioRead A s).2 := by
  rw [ioRead_snd]; exact .setHidden s _

/-- `IoWrite` leaves the general registers, the memories, the PC and the control state alone. -/
theorem ioWrite_eq (A : BitVec 6) (v : Byte) (s : State) : ioWrite A v s =
    { s with sreg := (ioWrite A v s).sreg, sp := (ioWrite A v s).sp, rampX := (ioWrite A v s).rampX,
             rampY := (ioWrite A v s).rampY, rampZ := (ioWrite A v s).rampZ, rampD := (ioWrite A v s).rampD,
             eind := (ioWrite A v s).eind,
             dev := { s.dev with bytes := (ioWrite A v s).dev.bytes, hidden := (ioWrite A v s).dev.hidden } } := by
  unfold ioWrite; split
  · next r _ => cases r <;> rfl
  · unfold devWrite; split <;> rfl

theorem Keeps.ioWrite (A : BitVec 6) (v : Byte) (s : State) : Keeps s (ioWrite A v s) := by
  unfold Machine.ioWrite; split
  · next h => exact .setCpuReg s _ v (cpuRegAt_exists h)
  · exact .devWrite _ v s

/-- SBI at a CPU register is a read and a write back of the whole byte, as an OUT writes it. -/
theorem setIoBit_cpu (A : BitVec 5) (b : BitIx) (s : State) {r : CpuReg} (h : cpuRegAt s.cfg (lowIo A) = some r) :
    setIoBit A b s = ioWrite (lowIo A) (putBit (ioRead (lowIo A) s).1 b true) s := by
  simp only [setIoBit, ioWrite, ioRead, h]

/-- The same of CBI. -/
theorem clearIoBit_cpu (A : BitVec 5) (b : BitIx) (s : State) {r : CpuReg} (h : cpuRegAt s.cfg (lowIo A) = some r) :
    clearIoBit A b s = ioWrite (lowIo A) (putBit (ioRead (lowIo A) s).1 b false) s := by
  simp only [clearIoBit, ioWrite, ioRead, h]

theorem Keeps.setIoBit (A : BitVec 5) (b : BitIx) (s : State) : Keeps s (setIoBit A b s) := by
  unfold Machine.setIoBit; split
  · next h => exact .setCpuReg s _ _ (cpuRegAt_exists h)
  · exact .devSetBit A b s

theorem Keeps.clearIoBit (A : BitVec 5) (b : BitIx) (s : State) : Keeps s (clearIoBit A b s) := by
  unfold Machine.clearIoBit; split
  · next h => exact .setCpuReg s _ _ (cpuRegAt_exists h)
  · exact .devClrBit A b s

/-! ### Data space -/

/-- A data read that succeeds changes the device's private state only. -/
theorem memRead_ok {a : Nat} {s t : State} {v : Byte} (h : memRead a s = .ok v t) : t = s.setHidden t.dev.hidden := by
  unfold memRead at h
  split at h
  · cases h; rfl
  · cases h; exact ioRead_snd _ s
  · cases h; exact devRead_snd _ s
  · cases h; rfl
  · unfold progLoad at h; split at h <;> cases h; rfl
  · cases h

/-- A data read that faults changes nothing. -/
theorem memRead_stop {a : Nat} {s t : State} {f : FaultInfo} (h : memRead a s = .stop f t) : t = s := by
  unfold memRead at h
  split at h <;> first | (cases h; done) | (cases h; rfl) | skip
  unfold progLoad at h; split at h <;> cases h; rfl

theorem Keeps.memRead {a : Nat} {s t : State} {v : Byte} (h : memRead a s = .ok v t) : Keeps s t := by
  rw [memRead_ok h]; exact .setHidden s _

/-- An SRAM byte written. -/
theorem Keeps.setSram (s : State) {a b : Nat} (v : Byte) (h : place s.cfg a = .sram b) :
    Keeps s { s with sram := Memory.set s.sram b v } := by
  refine ⟨⟨rfl, rfl, rfl, rfl, rfl, rfl, rfl, rfl, rfl, rfl, rfl⟩,
    fun k => ⟨Memory.wf_set _ _ _ k.sram, k.bytes, fun c hc => ?_, fun r => ?_⟩⟩
  · rcases Memory.mem_set _ _ _ _ hc with rfl | hc
    · exact ⟨a, h⟩
    · exact k.mapped c hc
  · cases r <;> exact k.absent _

/-- A data write keeps the control state and the invariant's data part, the PC among the rest. -/
theorem Keeps.memWrite {a : Nat} {v : Byte} {s t : State} (h : memWrite a v s = .ok () t) : Keeps s t ∧ t.pc = s.pc := by
  unfold Machine.memWrite at h
  split at h <;> cases h
  · exact ⟨.setReg s _ v, rfl⟩
  · exact ⟨.ioWrite _ v s, by rw [ioWrite_eq]⟩
  · exact ⟨.devWrite _ v s, by rw [devWrite_eq]⟩
  · next hb => exact ⟨.setSram s v hb, rfl⟩

/-- A data write that faults changes nothing. -/
theorem memWrite_stop {a : Nat} {v : Byte} {s t : State} {f : FaultInfo} (h : memWrite a v s = .stop f t) : t = s := by
  unfold memWrite at h
  split at h <;> first | (cases h; done) | (cases h; rfl)

/-- A data write never writes SREG unless it reaches an I/O location. -/
theorem memWrite_sreg {a : Nat} {v : Byte} {s t : State} (h : memWrite a v s = .ok () t)
    (hp : ∀ A, place s.cfg a ≠ .io A) : t.sreg = s.sreg := by
  unfold memWrite at h
  split at h <;> cases h
  · rfl
  · next hb => exact absurd hb (hp _)
  · rw [devWrite_eq]
  · rfl

/-! ### Sequencing -/

/-- A sequence that succeeds: both parts do. -/
theorem Res.bind_ok {α β : Type} {r : Res α} {k : α → State → Res β} {v : β} {t : State} (h : r.bind k = .ok v t) :
    ∃ x u, r = .ok x u ∧ k x u = .ok v t := by
  cases r with
  | ok x u => exact ⟨x, u, rfl, h⟩
  | stop f u => cases h

/-- An outcome that is a next state comes from a result. -/
theorem Res.outcome_next {r : Res Unit} {t : State} (h : r.outcome = .next t) : r = .ok () t := by
  cases r with
  | ok x u => cases h; rfl
  | stop f u => cases h

@[simp] theorem Res.ok_bind {α β : Type} (v : α) (s : State) (k : α → State → Res β) : (Res.ok v s).bind k = k v s := rfl

@[simp] theorem Res.stop_bind {α β : Type} (f : FaultInfo) (s : State) (k : α → State → Res β) :
    (Res.stop f s : Res α).bind k = .stop f s := rfl

@[simp] theorem Res.outcome_ok (v : Unit) (s : State) : (Res.ok v s).outcome = .next s := rfl

@[simp] theorem Res.outcome_stop (f : FaultInfo) (s : State) : (Res.stop f s : Res Unit).outcome = .fault (raise f s) := rfl

/-! ### Stack -/

theorem Keeps.push {v : Byte} {s t : State} (h : push v s = .ok () t) : Keeps s t ∧ t.pc = s.pc := by
  obtain ⟨_, u, h1, h2⟩ := Res.bind_ok h
  cases h2
  exact ⟨(memWrite h1).1.trans (.setSp u _), (memWrite h1).2⟩

/-- A pop changes the stack pointer and the device's private state only. -/
theorem pop_ok {s t : State} {v : Byte} (h : pop s = .ok v t) :
    t = { s with sp := wrapSp s.cfg (s.sp + 1), dev := { s.dev with hidden := t.dev.hidden } } :=
  memRead_ok h

theorem Keeps.pop {s t : State} {v : Byte} (h : pop s = .ok v t) : Keeps s t :=
  (Keeps.setSp s (s.sp + 1)).trans (.memRead (s := s.setSp (s.sp + 1)) h)

theorem Keeps.pushPc {ra : ProgAddr} {s t : State} (h : pushPc ra s = .ok () t) : Keeps s t ∧ t.pc = s.pc := by
  obtain ⟨_, u, h1, h2⟩ := Res.bind_ok h
  obtain ⟨_, w, h3, h4⟩ := Res.bind_ok h2
  have k := (push h1).1.trans (push h3).1
  have e := (push h3).2.trans (push h1).2
  split at h4
  · exact ⟨k.trans (push h4).1, (push h4).2.trans e⟩
  · cases h4; exact ⟨k, e⟩

/-- `PopPC` changes the stack pointer and the device's private state only. -/
theorem popPc_ok {s t : State} {ra : ProgAddr} (h : popPc s = .ok ra t) :
    t = { s with sp := t.sp, dev := { s.dev with hidden := t.dev.hidden } } := by
  unfold popPc at h
  split at h
  · obtain ⟨x, u, h1, h⟩ := Res.bind_ok h
    obtain ⟨y, w, h2, h⟩ := Res.bind_ok h
    obtain ⟨z, t', h3, h⟩ := Res.bind_ok h
    cases h
    rw [pop_ok h3, pop_ok h2, pop_ok h1]
  · obtain ⟨x, u, h1, h⟩ := Res.bind_ok h
    obtain ⟨y, w, h2, h⟩ := Res.bind_ok h
    cases h
    rw [pop_ok h2, pop_ok h1]

theorem Keeps.popPc {s t : State} {ra : ProgAddr} (h : popPc s = .ok ra t) : Keeps s t := by
  unfold Machine.popPc at h
  split at h
  · obtain ⟨x, u, h1, h⟩ := Res.bind_ok h
    obtain ⟨y, w, h2, h⟩ := Res.bind_ok h
    obtain ⟨z, t', h3, h⟩ := Res.bind_ok h
    cases h
    exact ((pop h1).trans (pop h2)).trans (pop h3)
  · obtain ⟨x, u, h1, h⟩ := Res.bind_ok h
    obtain ⟨y, w, h2, h⟩ := Res.bind_ok h
    cases h
    exact (pop h1).trans (pop h2)

/-- A push to an address in SRAM. -/
theorem push_sram (v : Byte) (s : State) {b : Nat} (h : place s.cfg s.sp.toNat = .sram b) :
    push v s = .ok () { s with sram := Memory.set s.sram b v, sp := wrapSp s.cfg (s.sp - 1) } := by
  simp only [push, memWrite, h, Res.ok_bind]; rfl

/-- A pop from an address in SRAM. -/
theorem pop_sram (s : State) {b : Nat} (h : place s.cfg (wrapSp s.cfg (s.sp + 1)).toNat = .sram b) :
    pop s = .ok (s.sramByte b) { s with sp := wrapSp s.cfg (s.sp + 1) } := by
  simp only [pop, memRead, State.setSp, h]; rfl

/-! ### Program memory, skips, calls, interrupts -/

/-- `ProgLoad` answers a byte in the same state. -/
theorem progLoad_ok {a : Nat} {s t : State} {v : Byte} (h : progLoad a s = .ok v t) :
    t = s ∧ v = s.progByte a ∧ a / 2 ≤ s.cfg.flashEnd := by
  unfold progLoad at h; split at h <;> cases h
  next hb => exact ⟨rfl, rfl, hb⟩

/-- A skip that succeeds moves the PC by one, two or three words and changes nothing else. -/
theorem skipIf_ok {cond : Bool} {s t : State} (h : skipIf cond s = .ok () t) :
    t = s.advance 1 ∨ t = s.advance 2 ∨ t = s.advance 3 := by
  unfold skipIf at h
  split at h
  · split at h
    · cases h; split
      · exact .inr (.inr rfl)
      · exact .inr (.inl rfl)
    · cases h
  · cases h; exact .inl rfl

/-- A call that succeeds. -/
theorem callTo_ok {ra target : ProgAddr} {s t : State} (h : callTo ra target s = .ok () t) :
    ∃ u, pushPc (wrapPc s.cfg ra) s = .ok () u ∧ t = u.setPc target := by
  obtain ⟨_, u, h1, h2⟩ := Res.bind_ok h
  cases h2
  exact ⟨u, h1, rfl⟩

/-- The device's acknowledgement changes its requests and private state only. -/
theorem devAck_eq (n : Nat) (s : State) : devAck n s = { s with dev := (devAck n s).dev } := by
  unfold devAck; split <;> rfl

/-- The device's tick changes the device only. -/
theorem devTick_eq (s : State) : devTick s = { s with dev := (devTick s).dev } := by
  unfold devTick; split <;> rfl

/-- An interrupt entry that succeeds. -/
theorem interruptEntry_ok {r : Request} {s t : State} (h : interruptEntry r s = .ok () t) :
    ∃ u, pushPc s.pc s = .ok () u ∧
      t = { devAck r.source u with pc := wrapPc u.cfg r.vector, sreg := putBit u.sreg flagI false, run := .running } := by
  obtain ⟨_, u, h1, h2⟩ := Res.bind_ok h
  refine ⟨u, h1, ?_⟩
  cases h2
  rw [devAck_eq]
  simp only [devAck, State.setPc]
  cases u.cfg.device <;> rfl

/-- A return from interrupt that succeeds. -/
theorem interruptReturn_ok {s t : State} (h : interruptReturn s = .ok () t) :
    ∃ ra u, popPc s = .ok ra u ∧ t = { u with pc := wrapPc u.cfg ra, sreg := putBit u.sreg flagI true } := by
  obtain ⟨ra, u, h1, h2⟩ := Res.bind_ok h
  cases h2
  exact ⟨ra, u, h1, rfl⟩

/-- A general register after a reset during the run is a free value (log 7). -/
theorem applyReset_reg (s : State) (i : RegIx) : (applyReset s).reg i = Config.resetRegister (s.resets + 1) i := by
  show (resetRegisters (s.resets + 1))[i.val] = _
  unfold resetRegisters
  simp

/-- What the check at an instruction boundary can do. -/
theorem boundary_ok {wasSei : Bool} {s t : State} (h : boundary wasSei s = .ok () t) :
    (devResetRequested (devTick s) = true ∧ t = applyReset (devTick s)) ∨
    (t = endInhibit wasSei (devTick s)) ∨
    (∃ r, acceptsInterrupt (endInhibit wasSei (devTick s)) = true ∧
      interruptEntry r (endInhibit wasSei (devTick s)) = .ok () t) := by
  simp only [boundary] at h
  split at h
  · next hr => cases h; exact .inl ⟨hr, rfl⟩
  · split at h
    · cases h; exact .inr (.inl rfl)
    · next r _ =>
      split at h
      · next ha => exact .inr (.inr ⟨r, ha, h⟩)
      · cases h; exact .inr (.inl rfl)

/-- What a step that answers a next state did. -/
theorem step_next {s t : State} (h : step s = .next t) :
    (s.run = .sleeping ∧ boundary false s = .ok () t) ∨
    (s.run = .running ∧ ∃ w i u, fetch s = .instr w i ∧ exec i s = .next u ∧
      boundary (decide (w = seiWord)) u = .ok () t) := by
  unfold step at h
  split at h
  · cases h
  · cases h
  · next hr => exact .inl ⟨hr, Res.outcome_next h⟩
  · next hr =>
    split at h
    · cases h
    · next w i hf =>
      refine .inr ⟨hr, w, i, ?_⟩
      cases he : exec i s with
      | next u => rw [he] at h; exact ⟨u, hf, rfl, Res.outcome_next h⟩
      | fault f => rw [he] at h; cases h
      | refused r => rw [he] at h; cases h

end Sys2Proof.Machine
end

