-- ==== Sys2Proof/Laws/Operands.lean ====
section
/-! SUPPORT. Pointers and addresses as numbers, and what a load, a store and an exchange can do. -/

namespace Sys2Proof.Machine

open Sys2Proof

/-! ### Addresses as numbers -/

/-- 2^DATA_BITS divides 2^24. -/
theorem dataBits_le (w : DataWidth) : dataBits w ≤ 24 := by cases w <;> decide

/-- A reduced data address as a number (20_memory.md R65). -/
theorem wrapData_toNat (c : Config) (a : DataAddr) : (wrapData c a).toNat = a.toNat % 2 ^ dataBits c.dataWidth := by
  have h1 : a.toNat % 2 ^ dataBits c.dataWidth ≤ a.toNat := Nat.mod_le _ _
  have h2 := a.isLt
  simp only [wrapData, BitVec.toNat_ofNat]
  exact Nat.mod_eq_of_lt (by omega)

/-- `PtrGet` as a number (42_data_transfer_load_store.md R260). -/
theorem ptrGet_toNat (p : Pointer) (s : State) : (ptrGet p s).toNat = pointer p s := by
  have h1 := (s.reg p.lo).isLt; have h2 := (s.reg (p.lo + 1)).isLt
  unfold ptrGet pointer
  cases s.cfg.dataWidth <;> dsimp only
  · rw [BitVec.toNat_setWidth]; exact Nat.mod_eq_of_lt (by omega)
  · rw [BitVec.toNat_setWidth, State.pair_toNat]; exact Nat.mod_eq_of_lt (by omega)
  · rw [append_toNat, State.pair_toNat]; omega

/-- A pointer is below 2^DATA_BITS. -/
theorem pointer_lt (p : Pointer) (s : State) : pointer p s < dataModulus s := by
  have h1 := (s.reg p.lo).isLt; have h2 := (s.reg (p.lo + 1)).isLt; have h3 := (s.ramp p).isLt
  unfold pointer dataModulus
  split <;> simp_all only [dataBits] <;> omega

/-- Reducing modulo 2^24 first makes no difference. -/
theorem mod_dataBits (s : State) (n : Nat) : n % 2 ^ 24 % dataModulus s = n % dataModulus s :=
  Nat.mod_mod_of_dvd n (Nat.pow_dvd_pow 2 (dataBits_le _))

theorem ptrNext_toNat (p : Pointer) (s : State) : (ptrNext p s).toNat = (pointer p s + 1) % dataModulus s := by
  rw [ptrNext, wrapData_toNat, BitVec.toNat_add, ptrGet_toNat]
  exact mod_dataBits s _

theorem ptrPrev_toNat (p : Pointer) (s : State) : (ptrPrev p s).toNat = decremented p s := by
  rw [ptrPrev, wrapData_toNat, BitVec.toNat_sub, ptrGet_toNat]
  have hlt := pointer_lt p s
  rw [decremented]
  show (2 ^ 24 - 1 + pointer p s) % 2 ^ 24 % dataModulus s = _
  rw [mod_dataBits]
  unfold dataModulus at *
  cases s.cfg.dataWidth <;> simp only [dataBits] at * <;> omega

theorem ptrDisp_toNat (p : Pointer) (q : BitVec 6) (s : State) :
    (ptrDisp p q s).toNat = (pointer p s + q.toNat) % dataModulus s := by
  have hq := q.isLt
  rw [ptrDisp, wrapData_toNat, BitVec.toNat_add, ptrGet_toNat, BitVec.toNat_setWidth,
    Nat.mod_eq_of_lt (by omega : q.toNat < 2 ^ 24)]
  exact mod_dataBits s _

/-- The address of LDS and STS as a number (R264). -/
theorem directAddr_toNat (k : Word) (s : State) : (directAddr k s).toNat = direct k s := by
  have hk := k.isLt
  unfold directAddr direct
  cases s.cfg.dataWidth <;> dsimp only
  · rw [BitVec.toNat_setWidth, Word.extract_low]; exact Nat.mod_eq_of_lt (by omega)
  · rw [BitVec.toNat_setWidth]; exact Nat.mod_eq_of_lt (by omega)
  · exact append_toNat _ _

/-! ### Pointers written -/

/-- `PtrSet` of a value below 2^DATA_BITS. -/
theorem ptrSet_spec (p : Pointer) (v : DataAddr) (s : State) (hv : v.toNat < dataModulus s) :
    PointerSet p v.toNat s (ptrSet p v s) := by
  have hne : p.lo + 1 ≠ p.lo := RegIx.succ_ne _
  have hmod : dataModulus s = 2 ^ dataBits s.cfg.dataWidth := rfl
  unfold ptrSet
  cases hd : s.cfg.dataWidth <;> rw [hmod, hd] at hv <;> simp only [dataBits] at hv
  · refine ⟨?_, fun _ => State.setReg_reg_ne s _ hne, fun _ => by cases p <;> rfl, fun o _ => by cases o <;> rfl,
      fun i h1 _ => State.setReg_reg_ne s _ h1, rfl⟩
    simp only [pointer, State.setReg_cfg, hd, State.setReg_reg_self, extract_toNat]
    omega
  · refine ⟨?_, fun h => by simp [hd] at h, fun _ => by cases p <;> rfl, fun o _ => by cases o <;> rfl,
      fun i h1 h2 => by rw [State.setPair_reg, if_neg h2, if_neg h1], rfl⟩
    simp only [pointer, State.setPair_cfg, hd, State.setPair_toNat, extract_toNat]
    omega
  · refine ⟨?_, fun h => by simp [hd] at h, fun h => absurd hd h, fun o ho => ?_, fun i h1 h2 => ?_, ?_⟩
    · have hc : ((s.setPair p.lo (v.extractLsb' 0 16)).setRamp p (v.extractLsb' 16 8)).cfg = s.cfg := by cases p <;> rfl
      have hr : ∀ i, ((s.setPair p.lo (v.extractLsb' 0 16)).setRamp p (v.extractLsb' 16 8)).reg i =
          (s.setPair p.lo (v.extractLsb' 0 16)).reg i := fun i => by cases p <;> rfl
      have hp : ((s.setPair p.lo (v.extractLsb' 0 16)).setRamp p (v.extractLsb' 16 8)).ramp p = v.extractLsb' 16 8 := by
        cases p <;> rfl
      have := State.setPair_toNat s p.lo (v.extractLsb' 0 16)
      have hv' : v.toNat < 16777216 := hv
      simp only [pointer, hc, hd, hr, hp]
      simp only [extract_toNat] at this ⊢
      rw [Nat.add_assoc, this]
      generalize v.toNat = n at *
      clear this hc hr hp hv hmod
      omega
    · cases p <;> cases o <;> first | rfl | exact absurd rfl ho
    · have : ((s.setPair p.lo (v.extractLsb' 0 16)).setRamp p (v.extractLsb' 16 8)).reg i =
          (s.setPair p.lo (v.extractLsb' 0 16)).reg i := by cases p <;> rfl
      rw [this, State.setPair_reg, if_neg h2, if_neg h1]
    · cases p <;> rfl

theorem ptrNext_lt (p : Pointer) (s : State) : (ptrNext p s).toNat < dataModulus s := by
  rw [ptrNext_toNat]; exact Nat.mod_lt _ (Nat.two_pow_pos _)

theorem ptrPrev_lt (p : Pointer) (s : State) : (ptrPrev p s).toNat < dataModulus s := by
  rw [ptrPrev_toNat]; exact Nat.mod_lt _ (Nat.two_pow_pos _)

theorem Keeps.ptrSet (p : Pointer) (v : DataAddr) (s : State) : Keeps s (ptrSet p v s) ∧ (ptrSet p v s).pc = s.pc ∧
    (ptrSet p v s).sreg = s.sreg := by
  unfold Machine.ptrSet
  split
  · exact ⟨.setReg s _ _, rfl, rfl⟩
  · exact ⟨.setPair s _ _, rfl, rfl⟩
  · next hd =>
    have hx : cpuRegExists s.cfg .rampX = true ∧ cpuRegExists s.cfg .rampY = true ∧ cpuRegExists s.cfg .rampZ = true := by
      simp [cpuRegExists, hd]
    have : (s.setPair p.lo (v.extractLsb' 0 16)).setRamp p (v.extractLsb' 16 8) =
        (s.setPair p.lo (v.extractLsb' 0 16)).setCpuReg
          (match p with | .x => .rampX | .y => .rampY | .z => .rampZ) (v.extractLsb' 16 8) := by cases p <;> rfl
    rw [this]
    refine ⟨(Keeps.setPair s p.lo _).trans (.setCpuReg _ _ _ ?_), by cases p <;> rfl, by cases p <;> rfl⟩
    cases p
    · exact hx.1
    · exact hx.2.1
    · exact hx.2.2

/-- A register is neither of a pointer's two. -/
theorem owns_false {p : Pointer} {d : RegIx} (h1 : d ≠ p.lo) (h2 : d ≠ p.lo + 1) : p.owns d = false := by
  simp [Pointer.owns, h1, h2]

/-! ### Data accesses -/

/-- A read of a readable address. -/
theorem memRead_readable {a : Nat} {s : State} (h : readable s a = true) :
    ∃ v u, memRead a s = .ok v u ∧ Reads a s v u := by
  unfold readable at h
  unfold memRead Reads
  cases hp : place s.cfg a <;> simp only [hp] at h ⊢
  · exact ⟨_, _, rfl, rfl, rfl⟩
  · exact ⟨_, _, rfl, rfl, rfl⟩
  · exact ⟨_, _, rfl, rfl, rfl⟩
  · exact ⟨_, _, rfl, rfl, rfl⟩
  · rw [progLoad, if_pos (by simpa using h)]; exact ⟨_, _, rfl, rfl, rfl⟩
  · cases h

/-- A read of any other address. -/
theorem memRead_unreadable {a : Nat} {s : State} (h : readable s a = false) : memRead a s = .stop (accessFault s a) s := by
  unfold readable at h
  unfold memRead accessFault
  cases hp : place s.cfg a <;> simp only [hp] at h ⊢ <;> try (simp at h; done)
  rw [progLoad, if_neg (by simpa using h), if_pos (by simpa using h)]

/-- A write of a writable address. -/
theorem memWrite_writable {a : Nat} (v : Byte) {s : State} (h : writable s a = true) :
    ∃ u, memWrite a v s = .ok () u ∧ Writes a v s u := by
  unfold writable at h
  unfold memWrite Writes
  cases hp : place s.cfg a <;> simp only [hp] at h ⊢
  · exact ⟨_, rfl, State.setReg_reg_self s _ v, fun i hi => State.setReg_reg_ne s v hi, rfl⟩
  · exact ⟨_, rfl, rfl⟩
  · exact ⟨_, rfl, rfl⟩
  · refine ⟨_, rfl, ?_, fun x hx => ?_, rfl⟩
    · simp [State.sramByte]
    · simp [State.sramByte, Memory.get_set_ne _ _ hx]
  · cases h
  · cases h

/-- A write of any other address. -/
theorem memWrite_unwritable {a : Nat} (v : Byte) {s : State} (h : writable s a = false) :
    memWrite a v s = .stop (.dataAccess a) s := by
  unfold writable at h
  unfold memWrite
  cases hp : place s.cfg a <;> simp only [hp] at h ⊢ <;> simp at h

/-- What can be accessed depends on the configuration alone. -/
theorem readable_congr {s t : State} (h : t.cfg = s.cfg) (a : Nat) : readable t a = readable s a := by
  simp only [readable, h]

theorem writable_congr {s t : State} (h : t.cfg = s.cfg) (a : Nat) : writable t a = writable s a := by
  simp only [writable, h]

theorem accessFault_congr {s t : State} (h : t.cfg = s.cfg) (a : Nat) : accessFault t a = accessFault s a := by
  simp only [accessFault, h]

/-- A writable address is readable. -/
theorem readable_of_writable {s : State} {a : Nat} (h : writable s a = true) : readable s a = true := by
  unfold writable at h
  unfold readable
  cases hp : place s.cfg a <;> simp only [hp] at h ⊢ <;> simp at h

/-- A load that succeeds. -/
theorem loadAt_ok {d : RegIx} {a : DataAddr} {n : ProgAddr} {s t : State} (h : loadAt d a n s = .ok () t) :
    ∃ v u, memRead a.toNat s = .ok v u ∧ t = (u.setReg d v).advance n := by
  obtain ⟨v, u, h1, h2⟩ := Res.bind_ok h
  cases h2
  exact ⟨v, u, h1, rfl⟩

/-- A store that succeeds. -/
theorem storeAt_ok {a : DataAddr} {v : Byte} {n : ProgAddr} {s t : State} (h : storeAt a v n s = .ok () t) :
    ∃ u, memWrite a.toNat v s = .ok () u ∧ t = u.advance n := by
  obtain ⟨_, u, h1, h2⟩ := Res.bind_ok h
  cases h2
  exact ⟨u, h1, rfl⟩

/-- A post-increment load that succeeds: the data register is outside the pointer. -/
theorem loadPostInc_ok {i : Instr} {p : Pointer} {d : RegIx} {s t : State} (h : loadPostInc i p d s = .ok () t) :
    p.owns d = false ∧ ∃ v u, memRead (ptrGet p s).toNat s = .ok v u ∧
      t = (ptrSet p (ptrNext p s) (u.setReg d v)).advance 1 := by
  unfold loadPostInc at h
  split at h
  · cases h
  · next ho =>
    obtain ⟨v, u, h1, h2⟩ := Res.bind_ok h
    cases h2
    exact ⟨by simpa using ho, v, u, h1, rfl⟩

/-- A pre-decrement load that succeeds. -/
theorem loadPreDec_ok {i : Instr} {p : Pointer} {d : RegIx} {s t : State} (h : loadPreDec i p d s = .ok () t) :
    p.owns d = false ∧ loadAt d (ptrPrev p s) 1 (ptrSet p (ptrPrev p s) s) = .ok () t := by
  unfold loadPreDec at h
  split at h
  · cases h
  · next ho => exact ⟨by simpa using ho, h⟩

/-- A post-increment store that succeeds. -/
theorem storePostInc_ok {i : Instr} {p : Pointer} {r : RegIx} {s t : State} (h : storePostInc i p r s = .ok () t) :
    p.owns r = false ∧ ∃ u, memWrite (ptrGet p s).toNat (s.reg r) s = .ok () u ∧
      t = (ptrSet p (ptrNext p s) u).advance 1 := by
  unfold storePostInc at h
  split at h
  · cases h
  · next ho =>
    obtain ⟨_, u, h1, h2⟩ := Res.bind_ok h
    cases h2
    exact ⟨by simpa using ho, u, h1, rfl⟩

/-- A pre-decrement store that succeeds. -/
theorem storePreDec_ok {i : Instr} {p : Pointer} {r : RegIx} {s t : State} (h : storePreDec i p r s = .ok () t) :
    p.owns r = false ∧ storeAt (ptrPrev p s) (s.reg r) 1 (ptrSet p (ptrPrev p s) s) = .ok () t := by
  unfold storePreDec at h
  split at h
  · cases h
  · next ho => exact ⟨by simpa using ho, h⟩

/-- An exchange that succeeds. -/
theorem exchangeAt_ok {f : Byte → Byte → Byte} {d : RegIx} {s t : State} (h : exchangeAt f d s = .ok () t) :
    ∃ old u w, memRead (ptrGet .z s).toNat s = .ok old u ∧
      memWrite (ptrGet .z s).toNat (f (s.reg d) old) u = .ok () w ∧ t = (w.setReg d old).advance 1 := by
  obtain ⟨old, u, h1, h⟩ := Res.bind_ok h
  obtain ⟨_, w, h2, h⟩ := Res.bind_ok h
  cases h
  exact ⟨old, u, w, h1, h2, rfl⟩

/-- A program-memory load that succeeds. -/
theorem progLoadAt_ok {d : RegIx} {a : BitVec 24} {s t : State} (h : progLoadAt d a s = .ok () t) :
    t = (s.setReg d (s.progByte a.toNat)).advance 1 := by
  obtain ⟨v, u, h1, h2⟩ := Res.bind_ok h
  obtain ⟨rfl, rfl, -⟩ := progLoad_ok h1
  cases h2
  rfl

/-! ### Program memory written -/

/-- A word written within FLASHEND keeps the canonical form, and lists bytes of words within FLASHEND only. -/
theorem progSetWord_wf (n : Nat) (m : Memory) (w : Nat) (v : Word) (hm : Memory.wf m = true) :
    Memory.wf (progSetWord n m w v) = true := by
  unfold progSetWord; split
  · exact Memory.wf_setWord _ _ _ hm
  · exact hm

theorem progSetWord_mem {n : Nat} {m : Memory} {w : Nat} {v : Word} {c : Host.Cell} (h : c ∈ progSetWord n m w v) :
    c ∈ m ∨ c.1 / 2 ≤ n := by
  unfold progSetWord at h; split at h
  · next hw =>
    rcases Memory.mem_set _ _ _ _ h with rfl | h
    · right; simp only; omega
    · rcases Memory.mem_set _ _ _ _ h with rfl | h
      · right; simp only; omega
      · exact .inl h
  · exact .inl h

/-- The same of words written one after the other. -/
theorem progSetWords_wf (n : Nat) (ws : List (Nat × Word)) (m : Memory) (hm : Memory.wf m = true) :
    Memory.wf (progSetWords n m ws) = true := by
  induction ws generalizing m with
  | nil => exact hm
  | cons p ws ih => exact ih _ (progSetWord_wf n m p.1 p.2 hm)

theorem progSetWords_mem {n : Nat} {ws : List (Nat × Word)} {m : Memory} {c : Host.Cell}
    (h : c ∈ progSetWords n m ws) : c ∈ m ∨ c.1 / 2 ≤ n := by
  induction ws generalizing m with
  | nil => exact .inl h
  | cons p ws ih =>
    rcases ih h with h | h
    · exact progSetWord_mem h
    · exact .inr h

/-! ### SPM -/

/-- An operation of SPM keeps program memory canonical and within FLASHEND. -/
theorem spmProg_wf (act : SpmAction) (a : Nat) (v : Word) (s : State) (m : Memory) (h : Memory.wf m = true) :
    Memory.wf (spmProg act a v s m) = true := by
  cases act
  · exact progSetWords_wf _ _ _ h
  · exact progSetWord_wf _ _ _ _ h
  · exact h
  · exact progSetWords_wf _ _ _ h
  · exact h
  · exact h

theorem spmProg_mem {act : SpmAction} {a : Nat} {v : Word} {s : State} {m : Memory} {c : Host.Cell}
    (h : c ∈ spmProg act a v s m) : c ∈ m ∨ c.1 / 2 ≤ s.cfg.flashEnd := by
  cases act
  · exact progSetWords_mem h
  · exact progSetWord_mem h
  · exact .inl h
  · exact progSetWords_mem h
  · exact .inl h
  · exact .inl h

/-- Without the parameter function SPM is that of a listed controller. -/
theorem spmResult_of_not_function {form : SpmForm} {s : State} (h : ∀ size, s.cfg.spmOp ≠ some (.function size)) :
    spmResult form s = listedSpm form s := by
  rw [spmResult]
  cases e : s.cfg.spmOp with
  | none => rfl
  | some k =>
    cases k with
    | listed size => rfl
    | function size => exact absurd e (h size)

/-- What SPM answers leaves the coming inputs, and the memories canonical where they were. -/
theorem spmResult_dev (form : SpmForm) (s : State) : (spmResult form s).dev.inputs = s.dev.inputs ∧
    (Memory.wf s.dev.bytes = true → Memory.wf (spmResult form s).dev.bytes = true) ∧
    (Memory.wf s.dev.pageBuffer = true → Memory.wf (spmResult form s).dev.pageBuffer = true) := by
  rw [spmResult]
  cases s.cfg.spmOp with
  | none => exact ⟨rfl, id, id⟩
  | some k =>
    cases k with
    | listed size => exact ⟨rfl, id, id⟩
    | function size => exact ⟨rfl, fun _ => Memory.wf_canonical _, fun _ => Memory.wf_canonical _⟩

/-- SPM keeps the memories canonical. -/
theorem spmOp_wf (form : SpmForm) (s : State) (hp : Memory.wf s.prog = true) (hb : Memory.wf s.dev.bytes = true)
    (hq : Memory.wf s.dev.pageBuffer = true) : Memory.wf (spmOp form s).prog = true ∧
    Memory.wf (spmOp form s).dev.bytes = true ∧ Memory.wf (spmOp form s).dev.pageBuffer = true := by
  obtain ⟨-, h1, h2⟩ := spmResult_dev form s
  refine ⟨spmProg_wf _ _ _ _ _ (progSetWords_wf _ _ _ hp), h1 hb, ?_⟩
  show Memory.wf (spmDevice _ _ _ _ _).pageBuffer = true
  unfold spmDevice
  cases (spmResult form s).action
  case fillBuffer => exact Memory.wf_setWord _ _ _ (h2 hq)
  all_goals exact h2 hq

/-- SPM lists no byte of a word above FLASHEND. -/
theorem spmOp_prog_mem {form : SpmForm} {s : State} {c : Host.Cell} (h : c ∈ (spmOp form s).prog) :
    c ∈ s.prog ∨ c.1 / 2 ≤ s.cfg.flashEnd := by
  rcases spmProg_mem h with h | h
  · exact progSetWords_mem h
  · exact .inr h

/-! ### DES -/

/-- The contract of `DesRound` (R171, D21): the rounds in order up to the fourteenth are the permutation `desRounds`, and
sixteen of them come to `desResult`. -/
theorem desRound_fold (H : Bool) (n : Nat) (hn : n ≤ 15) (x : BitVec 64 × BitVec 64) :
    (List.range n).foldl (fun y K => desRound y.1 y.2 (BitVec.ofNat 4 K) H) x = desRounds H n x := by
  induction n with
  | zero => rfl
  | succ n ih =>
    have hk : (BitVec.ofNat 4 n).toNat = n := by rw [BitVec.toNat_ofNat]; omega
    have hne : ¬ BitVec.ofNat 4 n = 15 := by
      intro h; have := congrArg BitVec.toNat h; rw [hk] at this; simp at this; omega
    rw [List.range_succ, List.foldl_append, ih (by omega)]
    rw [List.foldl_cons, List.foldl_nil, desRound, if_neg hne, hk]; rfl

theorem desRound_sixteen (H : Bool) (x : BitVec 64 × BitVec 64) :
    (List.range 16).foldl (fun y K => desRound y.1 y.2 (BitVec.ofNat 4 K) H) x = desResult H x := by
  rw [List.range_succ, List.foldl_append, desRound_fold H 15 (Nat.le_refl _)]
  rw [List.foldl_cons, List.foldl_nil, desRound, if_pos (by decide), Prod.mk.eta, Equiv.symm_apply_apply]

/-! ### The blocks of DES -/

/-- Eight bytes joined, as a number. -/
theorem bytes8_toNat (a0 a1 a2 a3 a4 a5 a6 a7 : Byte) : (a7 ++ a6 ++ a5 ++ a4 ++ a3 ++ a2 ++ a1 ++ a0).toNat =
    a0.toNat + 256 * (a1.toNat + 256 * (a2.toNat + 256 * (a3.toNat + 256 * (a4.toNat + 256 * (a5.toNat +
      256 * (a6.toNat + 256 * a7.toNat)))))) := by
  simp only [append_toNat]; omega

/-- Byte `k` of a block is the register `k` places on. -/
theorem State.block_byte (s : State) (i : RegIx) (k : Fin 8) :
    (s.block i).toNat / 256 ^ k.val % 256 = (s.reg (i + Fin.ofNat 32 k.val)).toNat := by
  rw [State.block, bytes8_toNat]
  have h0 := (s.reg i).isLt; have h1 := (s.reg (i + 1)).isLt; have h2 := (s.reg (i + 2)).isLt
  have h3 := (s.reg (i + 3)).isLt; have h4 := (s.reg (i + 4)).isLt; have h5 := (s.reg (i + 5)).isLt
  have h6 := (s.reg (i + 6)).isLt; have h7 := (s.reg (i + 7)).isLt
  match k with
  | 0 => show _ / 1 % 256 = (s.reg (i + 0)).toNat; rw [Fin.add_zero]; omega
  | 1 => show _ / 256 % 256 = (s.reg (i + 1)).toNat; omega
  | 2 => show _ / 65536 % 256 = (s.reg (i + 2)).toNat; omega
  | 3 => show _ / 16777216 % 256 = (s.reg (i + 3)).toNat; omega
  | 4 => show _ / 4294967296 % 256 = (s.reg (i + 4)).toNat; omega
  | 5 => show _ / 1099511627776 % 256 = (s.reg (i + 5)).toNat; omega
  | 6 => show _ / 281474976710656 % 256 = (s.reg (i + 6)).toNat; omega
  | 7 => show _ / 72057594037927936 % 256 = (s.reg (i + 7)).toNat; omega

/-- Blocks with the same bytes are the same. -/
theorem block_ext {v w : BitVec 64} (h : ∀ k : Fin 8, v.toNat / 256 ^ k.val % 256 = w.toNat / 256 ^ k.val % 256) :
    v = w := by
  refine BitVec.eq_of_toNat_eq ?_
  have hv := v.isLt; have hw := w.isLt
  have h0 := h 0; have h1 := h 1; have h2 := h 2; have h3 := h 3
  have h4 := h 4; have h5 := h 5; have h6 := h 6; have h7 := h 7
  norm_num at h0 h1 h2 h3 h4 h5 h6 h7 hv hw
  omega

/-- Writing a block changes only registers. -/
theorem State.setBlock_eq (s : State) (i : RegIx) (v : BitVec 64) : ∃ g, s.setBlock i v = { s with regs := g } := by
  have one : ∀ (t : State) (j : RegIx) (w : Byte), (∃ g, t = { s with regs := g }) →
      ∃ g, t.setReg j w = { s with regs := g } := by
    rintro t j w ⟨g, rfl⟩
    exact ⟨_, rfl⟩
  exact one _ _ _ (one _ _ _ (one _ _ _ (one _ _ _ (one _ _ _ (one _ _ _ (one _ _ _ (one _ _ _ ⟨_, rfl⟩)))))))

/-- Writing a block leaves the registers outside it. -/
theorem State.setBlock_reg_outside (s : State) (i j : RegIx) (v : BitVec 64)
    (h : ∀ k : Fin 8, j ≠ i + Fin.ofNat 32 k.val) : (s.setBlock i v).reg j = s.reg j := by
  have h0 : j ≠ i := fun hh => h 0 (hh.trans (Fin.add_zero i).symm)
  rw [State.setBlock]
  simp only [State.setReg_reg]
  rw [if_neg (show ¬ j = i + 7 from h 7), if_neg (show ¬ j = i + 6 from h 6), if_neg (show ¬ j = i + 5 from h 5),
    if_neg (show ¬ j = i + 4 from h 4), if_neg (show ¬ j = i + 3 from h 3), if_neg (show ¬ j = i + 2 from h 2),
    if_neg (show ¬ j = i + 1 from h 1), if_neg h0]

/-- The registers of a block after it is written. -/
theorem State.setBlock_reg_inside (s : State) (i : RegIx) (v : BitVec 64) (k : Fin 8) :
    (s.setBlock i v).reg (i + Fin.ofNat 32 k.val) = v.extractLsb' (8 * k.val) 8 := by
  have ne : ∀ a b : RegIx, (i + a = i + b) = (a = b) := fun a b => propext ⟨fun h => by simpa using h, fun h => by rw [h]⟩
  have ne0 : ∀ a : RegIx, (i + a = i) = (a = 0) := fun a => by rw [← ne a 0, Fin.add_zero]
  rw [State.setBlock]
  simp only [State.setReg_reg, ne, ne0]
  revert k
  exact fun k => match k with
    | 0 => rfl
    | 1 => rfl
    | 2 => rfl
    | 3 => rfl
    | 4 => rfl
    | 5 => rfl
    | 6 => rfl
    | 7 => rfl

/-- A block written is the block read. -/
theorem State.block_setBlock (s : State) (i : RegIx) (v : BitVec 64) : (s.setBlock i v).block i = v :=
  block_ext fun k => by
    rw [State.block_byte, State.setBlock_reg_inside, BitVec.extractLsb'_toNat, Nat.shiftRight_eq_div_pow, Nat.pow_mul]

/-- A block that shares no register with the one written. -/
theorem State.block_setBlock_other (s : State) (i j : RegIx) (v : BitVec 64)
    (h : ∀ k l : Fin 8, j + Fin.ofNat 32 k.val ≠ i + Fin.ofNat 32 l.val) : (s.setBlock i v).block j = s.block j :=
  block_ext fun k => by rw [State.block_byte, State.block_byte, State.setBlock_reg_outside _ _ _ _ (h k)]

/-! ### The memories after reset and after a reset -/

theorem reset_memories_wf : Memory.wf State.reset.prog = true ∧ Memory.wf State.reset.sram = true ∧
    Memory.wf State.reset.dev.bytes = true ∧ Memory.wf State.reset.dev.pageBuffer = true := by decide

/-- A reset during the run keeps program memory and empties the others. -/
theorem applyReset_memories (s : State) : (applyReset s).prog = s.prog ∧ (applyReset s).sram = [] ∧
    (applyReset s).dev.bytes = [] ∧ (applyReset s).dev.pageBuffer = [] := by
  unfold applyReset Device.afterReset Device.reset
  exact ⟨rfl, rfl, rfl, rfl⟩

theorem applyReset_memories_wf (s : State) (h : Memory.wf s.prog = true) : Memory.wf (applyReset s).prog = true ∧
    Memory.wf (applyReset s).sram = true ∧ Memory.wf (applyReset s).dev.bytes = true ∧
    Memory.wf (applyReset s).dev.pageBuffer = true := by
  obtain ⟨h1, h2, h3, h4⟩ := applyReset_memories s
  rw [h1, h2, h3, h4]
  exact ⟨h, rfl, rfl, rfl⟩

/-- What the outside world does to the device's bytes keeps their canonical form. -/
theorem Device.tick_bytes_wf (d : Device) (h : Memory.wf d.bytes = true) : Memory.wf d.tick.bytes = true := by
  have key : ∀ (es : List DeviceEvent) (d : Device), Memory.wf d.bytes = true →
      Memory.wf (es.foldl Device.apply d).bytes = true := by
    intro es
    induction es with
    | nil => exact fun _ h => h
    | cons e es ih =>
      intro d h
      refine ih _ ?_
      cases e with
      | setByte loc v => exact Memory.wf_set _ _ _ h
      | request r => exact h
      | setSleepEnabled b => exact h
      | requestReset => exact h
  unfold Device.tick
  split
  · exact h
  · exact key _ _ h

end Sys2Proof.Machine
end

