-- ==== Sys2Proof/Laws/PerInstr.lean ====
section
/-! SUPPORT. One lemma per instruction: its canonical form has the same words, is well formed where it is, is its own
canonical form, and the number of words is that of R103. -/

namespace Sys2Proof.Laws

open Sys2Proof

/-- The words of an instruction: two for LDS and STS (32-bit), JMP and CALL (30_encoding.md R103). -/
def wordCount : Instr → Nat
  | .lds _ _ => 2
  | .sts _ _ => 2
  | .jmp _ => 2
  | .call _ => 2
  | _ => 1

/-- What holds of the encoding of every instruction. -/
def CanonicalEncoding.Statement (i : Instr) : Prop :=
  i.wellFormed = true → i.canonical.wellFormed = true ∧ encode i.canonical = encode i ∧
    i.canonical.canonical = i.canonical ∧ (encode i).length = wordCount i

/-- An instruction that is its own canonical form. -/
theorem canonicalEncoding_of_canonical {i : Instr} (h : i.canonical = i) (n : (encode i).length = wordCount i) :
    CanonicalEncoding.Statement i := fun hw => ⟨by rw [h]; exact hw, by rw [h], by rw [h, h], n⟩

/-- A branch with its flag in the opcode is BRBS or BRBC of that flag. -/
theorem encSk7_flag (op : Nat) (s : BitIx) (k : BitVec 7) : encSk7 op s k = encSk7 (op + s.val) 0 k := by
  simp only [encSk7]; omega

/-- A displacement of zero encodes as the form without displacement. -/
theorem encRdq_zero (op : Nat) (d : RegIx) : encRdq op d 0 = encRd op d := by
  simp [encRdq, encRd]

theorem CanonicalEncoding.add (d : RegIx) (r : RegIx) : CanonicalEncoding.Statement (.add d r) :=
  canonicalEncoding_of_canonical rfl rfl
theorem CanonicalEncoding.adc (d : RegIx) (r : RegIx) : CanonicalEncoding.Statement (.adc d r) :=
  canonicalEncoding_of_canonical rfl rfl
theorem CanonicalEncoding.adiw (d : RegIx) (K : BitVec 6) : CanonicalEncoding.Statement (.adiw d K) :=
  canonicalEncoding_of_canonical rfl rfl
theorem CanonicalEncoding.sub (d : RegIx) (r : RegIx) : CanonicalEncoding.Statement (.sub d r) :=
  canonicalEncoding_of_canonical rfl rfl
theorem CanonicalEncoding.subi (d : RegIx) (K : Byte) : CanonicalEncoding.Statement (.subi d K) :=
  canonicalEncoding_of_canonical rfl rfl
theorem CanonicalEncoding.sbc (d : RegIx) (r : RegIx) : CanonicalEncoding.Statement (.sbc d r) :=
  canonicalEncoding_of_canonical rfl rfl
theorem CanonicalEncoding.sbci (d : RegIx) (K : Byte) : CanonicalEncoding.Statement (.sbci d K) :=
  canonicalEncoding_of_canonical rfl rfl
theorem CanonicalEncoding.sbiw (d : RegIx) (K : BitVec 6) : CanonicalEncoding.Statement (.sbiw d K) :=
  canonicalEncoding_of_canonical rfl rfl
theorem CanonicalEncoding.and (d : RegIx) (r : RegIx) : CanonicalEncoding.Statement (.and d r) :=
  canonicalEncoding_of_canonical rfl rfl
theorem CanonicalEncoding.andi (d : RegIx) (K : Byte) : CanonicalEncoding.Statement (.andi d K) :=
  canonicalEncoding_of_canonical rfl rfl
theorem CanonicalEncoding.or (d : RegIx) (r : RegIx) : CanonicalEncoding.Statement (.or d r) :=
  canonicalEncoding_of_canonical rfl rfl
theorem CanonicalEncoding.ori (d : RegIx) (K : Byte) : CanonicalEncoding.Statement (.ori d K) :=
  canonicalEncoding_of_canonical rfl rfl
theorem CanonicalEncoding.eor (d : RegIx) (r : RegIx) : CanonicalEncoding.Statement (.eor d r) :=
  canonicalEncoding_of_canonical rfl rfl
theorem CanonicalEncoding.com (d : RegIx) : CanonicalEncoding.Statement (.com d) :=
  canonicalEncoding_of_canonical rfl rfl
theorem CanonicalEncoding.neg (d : RegIx) : CanonicalEncoding.Statement (.neg d) :=
  canonicalEncoding_of_canonical rfl rfl
theorem CanonicalEncoding.sbr (d : RegIx) (K : Byte) : CanonicalEncoding.Statement (.sbr d K) :=
  fun h => ⟨h, rfl, rfl, rfl⟩
theorem CanonicalEncoding.cbr (d : RegIx) (K : Byte) : CanonicalEncoding.Statement (.cbr d K) :=
  fun h => ⟨h, rfl, rfl, rfl⟩
theorem CanonicalEncoding.inc (d : RegIx) : CanonicalEncoding.Statement (.inc d) :=
  canonicalEncoding_of_canonical rfl rfl
theorem CanonicalEncoding.dec (d : RegIx) : CanonicalEncoding.Statement (.dec d) :=
  canonicalEncoding_of_canonical rfl rfl
theorem CanonicalEncoding.tst (d : RegIx) : CanonicalEncoding.Statement (.tst d) := fun _ => ⟨rfl, rfl, rfl, rfl⟩
theorem CanonicalEncoding.clr (d : RegIx) : CanonicalEncoding.Statement (.clr d) := fun _ => ⟨rfl, rfl, rfl, rfl⟩
theorem CanonicalEncoding.ser (d : RegIx) : CanonicalEncoding.Statement (.ser d) := fun h => ⟨h, rfl, rfl, rfl⟩
theorem CanonicalEncoding.mul (d : RegIx) (r : RegIx) : CanonicalEncoding.Statement (.mul d r) :=
  canonicalEncoding_of_canonical rfl rfl
theorem CanonicalEncoding.muls (d : RegIx) (r : RegIx) : CanonicalEncoding.Statement (.muls d r) :=
  canonicalEncoding_of_canonical rfl rfl
theorem CanonicalEncoding.mulsu (d : RegIx) (r : RegIx) : CanonicalEncoding.Statement (.mulsu d r) :=
  canonicalEncoding_of_canonical rfl rfl
theorem CanonicalEncoding.fmul (d : RegIx) (r : RegIx) : CanonicalEncoding.Statement (.fmul d r) :=
  canonicalEncoding_of_canonical rfl rfl
theorem CanonicalEncoding.fmuls (d : RegIx) (r : RegIx) : CanonicalEncoding.Statement (.fmuls d r) :=
  canonicalEncoding_of_canonical rfl rfl
theorem CanonicalEncoding.fmulsu (d : RegIx) (r : RegIx) : CanonicalEncoding.Statement (.fmulsu d r) :=
  canonicalEncoding_of_canonical rfl rfl
theorem CanonicalEncoding.des (K : BitVec 4) : CanonicalEncoding.Statement (.des K) :=
  canonicalEncoding_of_canonical rfl rfl
theorem CanonicalEncoding.rjmp (k : BitVec 12) : CanonicalEncoding.Statement (.rjmp k) :=
  canonicalEncoding_of_canonical rfl rfl
theorem CanonicalEncoding.ijmp : CanonicalEncoding.Statement (.ijmp) := canonicalEncoding_of_canonical rfl rfl
theorem CanonicalEncoding.eijmp : CanonicalEncoding.Statement (.eijmp) := canonicalEncoding_of_canonical rfl rfl
theorem CanonicalEncoding.jmp (k : BitVec 22) : CanonicalEncoding.Statement (.jmp k) :=
  canonicalEncoding_of_canonical rfl rfl
theorem CanonicalEncoding.rcall (k : BitVec 12) : CanonicalEncoding.Statement (.rcall k) :=
  canonicalEncoding_of_canonical rfl rfl
theorem CanonicalEncoding.icall : CanonicalEncoding.Statement (.icall) := canonicalEncoding_of_canonical rfl rfl
theorem CanonicalEncoding.eicall : CanonicalEncoding.Statement (.eicall) := canonicalEncoding_of_canonical rfl rfl
theorem CanonicalEncoding.call (k : BitVec 22) : CanonicalEncoding.Statement (.call k) :=
  canonicalEncoding_of_canonical rfl rfl
theorem CanonicalEncoding.ret : CanonicalEncoding.Statement (.ret) := canonicalEncoding_of_canonical rfl rfl
theorem CanonicalEncoding.reti : CanonicalEncoding.Statement (.reti) := canonicalEncoding_of_canonical rfl rfl
theorem CanonicalEncoding.cpse (d : RegIx) (r : RegIx) : CanonicalEncoding.Statement (.cpse d r) :=
  canonicalEncoding_of_canonical rfl rfl
theorem CanonicalEncoding.cp (d : RegIx) (r : RegIx) : CanonicalEncoding.Statement (.cp d r) :=
  canonicalEncoding_of_canonical rfl rfl
theorem CanonicalEncoding.cpc (d : RegIx) (r : RegIx) : CanonicalEncoding.Statement (.cpc d r) :=
  canonicalEncoding_of_canonical rfl rfl
theorem CanonicalEncoding.cpi (d : RegIx) (K : Byte) : CanonicalEncoding.Statement (.cpi d K) :=
  canonicalEncoding_of_canonical rfl rfl
theorem CanonicalEncoding.sbrc (r : RegIx) (b : BitIx) : CanonicalEncoding.Statement (.sbrc r b) :=
  canonicalEncoding_of_canonical rfl rfl
theorem CanonicalEncoding.sbrs (r : RegIx) (b : BitIx) : CanonicalEncoding.Statement (.sbrs r b) :=
  canonicalEncoding_of_canonical rfl rfl
theorem CanonicalEncoding.sbic (A : BitVec 5) (b : BitIx) : CanonicalEncoding.Statement (.sbic A b) :=
  canonicalEncoding_of_canonical rfl rfl
theorem CanonicalEncoding.sbis (A : BitVec 5) (b : BitIx) : CanonicalEncoding.Statement (.sbis A b) :=
  canonicalEncoding_of_canonical rfl rfl
theorem CanonicalEncoding.brbs (s : BitIx) (k : BitVec 7) : CanonicalEncoding.Statement (.brbs s k) :=
  canonicalEncoding_of_canonical rfl rfl
theorem CanonicalEncoding.brbc (s : BitIx) (k : BitVec 7) : CanonicalEncoding.Statement (.brbc s k) :=
  canonicalEncoding_of_canonical rfl rfl
theorem CanonicalEncoding.breq (k : BitVec 7) : CanonicalEncoding.Statement (.breq k) :=
  fun _ => ⟨rfl, congrArg oneWord (encSk7_flag _ _ k), rfl, rfl⟩
theorem CanonicalEncoding.brne (k : BitVec 7) : CanonicalEncoding.Statement (.brne k) :=
  fun _ => ⟨rfl, congrArg oneWord (encSk7_flag _ _ k), rfl, rfl⟩
theorem CanonicalEncoding.brcs (k : BitVec 7) : CanonicalEncoding.Statement (.brcs k) :=
  fun _ => ⟨rfl, congrArg oneWord (encSk7_flag _ _ k), rfl, rfl⟩
theorem CanonicalEncoding.brcc (k : BitVec 7) : CanonicalEncoding.Statement (.brcc k) :=
  fun _ => ⟨rfl, congrArg oneWord (encSk7_flag _ _ k), rfl, rfl⟩
theorem CanonicalEncoding.brsh (k : BitVec 7) : CanonicalEncoding.Statement (.brsh k) :=
  fun _ => ⟨rfl, congrArg oneWord (encSk7_flag _ _ k), rfl, rfl⟩
theorem CanonicalEncoding.brlo (k : BitVec 7) : CanonicalEncoding.Statement (.brlo k) :=
  fun _ => ⟨rfl, congrArg oneWord (encSk7_flag _ _ k), rfl, rfl⟩
theorem CanonicalEncoding.brmi (k : BitVec 7) : CanonicalEncoding.Statement (.brmi k) :=
  fun _ => ⟨rfl, congrArg oneWord (encSk7_flag _ _ k), rfl, rfl⟩
theorem CanonicalEncoding.brpl (k : BitVec 7) : CanonicalEncoding.Statement (.brpl k) :=
  fun _ => ⟨rfl, congrArg oneWord (encSk7_flag _ _ k), rfl, rfl⟩
theorem CanonicalEncoding.brge (k : BitVec 7) : CanonicalEncoding.Statement (.brge k) :=
  fun _ => ⟨rfl, congrArg oneWord (encSk7_flag _ _ k), rfl, rfl⟩
theorem CanonicalEncoding.brlt (k : BitVec 7) : CanonicalEncoding.Statement (.brlt k) :=
  fun _ => ⟨rfl, congrArg oneWord (encSk7_flag _ _ k), rfl, rfl⟩
theorem CanonicalEncoding.brhs (k : BitVec 7) : CanonicalEncoding.Statement (.brhs k) :=
  fun _ => ⟨rfl, congrArg oneWord (encSk7_flag _ _ k), rfl, rfl⟩
theorem CanonicalEncoding.brhc (k : BitVec 7) : CanonicalEncoding.Statement (.brhc k) :=
  fun _ => ⟨rfl, congrArg oneWord (encSk7_flag _ _ k), rfl, rfl⟩
theorem CanonicalEncoding.brts (k : BitVec 7) : CanonicalEncoding.Statement (.brts k) :=
  fun _ => ⟨rfl, congrArg oneWord (encSk7_flag _ _ k), rfl, rfl⟩
theorem CanonicalEncoding.brtc (k : BitVec 7) : CanonicalEncoding.Statement (.brtc k) :=
  fun _ => ⟨rfl, congrArg oneWord (encSk7_flag _ _ k), rfl, rfl⟩
theorem CanonicalEncoding.brvs (k : BitVec 7) : CanonicalEncoding.Statement (.brvs k) :=
  fun _ => ⟨rfl, congrArg oneWord (encSk7_flag _ _ k), rfl, rfl⟩
theorem CanonicalEncoding.brvc (k : BitVec 7) : CanonicalEncoding.Statement (.brvc k) :=
  fun _ => ⟨rfl, congrArg oneWord (encSk7_flag _ _ k), rfl, rfl⟩
theorem CanonicalEncoding.brie (k : BitVec 7) : CanonicalEncoding.Statement (.brie k) :=
  fun _ => ⟨rfl, congrArg oneWord (encSk7_flag _ _ k), rfl, rfl⟩
theorem CanonicalEncoding.brid (k : BitVec 7) : CanonicalEncoding.Statement (.brid k) :=
  fun _ => ⟨rfl, congrArg oneWord (encSk7_flag _ _ k), rfl, rfl⟩
theorem CanonicalEncoding.mov (d : RegIx) (r : RegIx) : CanonicalEncoding.Statement (.mov d r) :=
  canonicalEncoding_of_canonical rfl rfl
theorem CanonicalEncoding.movw (d : RegIx) (r : RegIx) : CanonicalEncoding.Statement (.movw d r) :=
  canonicalEncoding_of_canonical rfl rfl
theorem CanonicalEncoding.ldi (d : RegIx) (K : Byte) : CanonicalEncoding.Statement (.ldi d K) :=
  canonicalEncoding_of_canonical rfl rfl
theorem CanonicalEncoding.lds (d : RegIx) (k : Word) : CanonicalEncoding.Statement (.lds d k) :=
  canonicalEncoding_of_canonical rfl rfl
theorem CanonicalEncoding.lds16 (d : RegIx) (k : BitVec 7) : CanonicalEncoding.Statement (.lds16 d k) :=
  canonicalEncoding_of_canonical rfl rfl
theorem CanonicalEncoding.ldX (d : RegIx) : CanonicalEncoding.Statement (.ldX d) :=
  canonicalEncoding_of_canonical rfl rfl
theorem CanonicalEncoding.ldXInc (d : RegIx) : CanonicalEncoding.Statement (.ldXInc d) :=
  canonicalEncoding_of_canonical rfl rfl
theorem CanonicalEncoding.ldXDec (d : RegIx) : CanonicalEncoding.Statement (.ldXDec d) :=
  canonicalEncoding_of_canonical rfl rfl
theorem CanonicalEncoding.ldY (d : RegIx) : CanonicalEncoding.Statement (.ldY d) :=
  fun _ => ⟨rfl, congrArg oneWord (encRdq_zero _ d), rfl, rfl⟩
theorem CanonicalEncoding.ldYInc (d : RegIx) : CanonicalEncoding.Statement (.ldYInc d) :=
  canonicalEncoding_of_canonical rfl rfl
theorem CanonicalEncoding.ldYDec (d : RegIx) : CanonicalEncoding.Statement (.ldYDec d) :=
  canonicalEncoding_of_canonical rfl rfl
theorem CanonicalEncoding.lddY (d : RegIx) (q : BitVec 6) : CanonicalEncoding.Statement (.lddY d q) :=
  canonicalEncoding_of_canonical rfl rfl
theorem CanonicalEncoding.ldZ (d : RegIx) : CanonicalEncoding.Statement (.ldZ d) :=
  fun _ => ⟨rfl, congrArg oneWord (encRdq_zero _ d), rfl, rfl⟩
theorem CanonicalEncoding.ldZInc (d : RegIx) : CanonicalEncoding.Statement (.ldZInc d) :=
  canonicalEncoding_of_canonical rfl rfl
theorem CanonicalEncoding.ldZDec (d : RegIx) : CanonicalEncoding.Statement (.ldZDec d) :=
  canonicalEncoding_of_canonical rfl rfl
theorem CanonicalEncoding.lddZ (d : RegIx) (q : BitVec 6) : CanonicalEncoding.Statement (.lddZ d q) :=
  canonicalEncoding_of_canonical rfl rfl
theorem CanonicalEncoding.sts (k : Word) (r : RegIx) : CanonicalEncoding.Statement (.sts k r) :=
  canonicalEncoding_of_canonical rfl rfl
theorem CanonicalEncoding.sts16 (k : BitVec 7) (r : RegIx) : CanonicalEncoding.Statement (.sts16 k r) :=
  canonicalEncoding_of_canonical rfl rfl
theorem CanonicalEncoding.stX (r : RegIx) : CanonicalEncoding.Statement (.stX r) :=
  canonicalEncoding_of_canonical rfl rfl
theorem CanonicalEncoding.stXInc (r : RegIx) : CanonicalEncoding.Statement (.stXInc r) :=
  canonicalEncoding_of_canonical rfl rfl
theorem CanonicalEncoding.stXDec (r : RegIx) : CanonicalEncoding.Statement (.stXDec r) :=
  canonicalEncoding_of_canonical rfl rfl
theorem CanonicalEncoding.stY (r : RegIx) : CanonicalEncoding.Statement (.stY r) :=
  fun _ => ⟨rfl, congrArg oneWord (encRdq_zero _ r), rfl, rfl⟩
theorem CanonicalEncoding.stYInc (r : RegIx) : CanonicalEncoding.Statement (.stYInc r) :=
  canonicalEncoding_of_canonical rfl rfl
theorem CanonicalEncoding.stYDec (r : RegIx) : CanonicalEncoding.Statement (.stYDec r) :=
  canonicalEncoding_of_canonical rfl rfl
theorem CanonicalEncoding.stdY (q : BitVec 6) (r : RegIx) : CanonicalEncoding.Statement (.stdY q r) :=
  canonicalEncoding_of_canonical rfl rfl
theorem CanonicalEncoding.stZ (r : RegIx) : CanonicalEncoding.Statement (.stZ r) :=
  fun _ => ⟨rfl, congrArg oneWord (encRdq_zero _ r), rfl, rfl⟩
theorem CanonicalEncoding.stZInc (r : RegIx) : CanonicalEncoding.Statement (.stZInc r) :=
  canonicalEncoding_of_canonical rfl rfl
theorem CanonicalEncoding.stZDec (r : RegIx) : CanonicalEncoding.Statement (.stZDec r) :=
  canonicalEncoding_of_canonical rfl rfl
theorem CanonicalEncoding.stdZ (q : BitVec 6) (r : RegIx) : CanonicalEncoding.Statement (.stdZ q r) :=
  canonicalEncoding_of_canonical rfl rfl
theorem CanonicalEncoding.lpmR0 : CanonicalEncoding.Statement (.lpmR0) := canonicalEncoding_of_canonical rfl rfl
theorem CanonicalEncoding.lpm (d : RegIx) : CanonicalEncoding.Statement (.lpm d) :=
  canonicalEncoding_of_canonical rfl rfl
theorem CanonicalEncoding.lpmZInc (d : RegIx) : CanonicalEncoding.Statement (.lpmZInc d) :=
  canonicalEncoding_of_canonical rfl rfl
theorem CanonicalEncoding.elpmR0 : CanonicalEncoding.Statement (.elpmR0) := canonicalEncoding_of_canonical rfl rfl
theorem CanonicalEncoding.elpm (d : RegIx) : CanonicalEncoding.Statement (.elpm d) :=
  canonicalEncoding_of_canonical rfl rfl
theorem CanonicalEncoding.elpmZInc (d : RegIx) : CanonicalEncoding.Statement (.elpmZInc d) :=
  canonicalEncoding_of_canonical rfl rfl
theorem CanonicalEncoding.spm : CanonicalEncoding.Statement (.spm) := canonicalEncoding_of_canonical rfl rfl
theorem CanonicalEncoding.spmZInc : CanonicalEncoding.Statement (.spmZInc) := canonicalEncoding_of_canonical rfl rfl
theorem CanonicalEncoding.inp (d : RegIx) (A : BitVec 6) : CanonicalEncoding.Statement (.inp d A) :=
  canonicalEncoding_of_canonical rfl rfl
theorem CanonicalEncoding.out (A : BitVec 6) (r : RegIx) : CanonicalEncoding.Statement (.out A r) :=
  canonicalEncoding_of_canonical rfl rfl
theorem CanonicalEncoding.push (r : RegIx) : CanonicalEncoding.Statement (.push r) :=
  canonicalEncoding_of_canonical rfl rfl
theorem CanonicalEncoding.pop (d : RegIx) : CanonicalEncoding.Statement (.pop d) :=
  canonicalEncoding_of_canonical rfl rfl
theorem CanonicalEncoding.xch (d : RegIx) : CanonicalEncoding.Statement (.xch d) :=
  canonicalEncoding_of_canonical rfl rfl
theorem CanonicalEncoding.las (d : RegIx) : CanonicalEncoding.Statement (.las d) :=
  canonicalEncoding_of_canonical rfl rfl
theorem CanonicalEncoding.lac (d : RegIx) : CanonicalEncoding.Statement (.lac d) :=
  canonicalEncoding_of_canonical rfl rfl
theorem CanonicalEncoding.lat (d : RegIx) : CanonicalEncoding.Statement (.lat d) :=
  canonicalEncoding_of_canonical rfl rfl
theorem CanonicalEncoding.lsl (d : RegIx) : CanonicalEncoding.Statement (.lsl d) := fun _ => ⟨rfl, rfl, rfl, rfl⟩
theorem CanonicalEncoding.lsr (d : RegIx) : CanonicalEncoding.Statement (.lsr d) :=
  canonicalEncoding_of_canonical rfl rfl
theorem CanonicalEncoding.rol (d : RegIx) : CanonicalEncoding.Statement (.rol d) := fun _ => ⟨rfl, rfl, rfl, rfl⟩
theorem CanonicalEncoding.ror (d : RegIx) : CanonicalEncoding.Statement (.ror d) :=
  canonicalEncoding_of_canonical rfl rfl
theorem CanonicalEncoding.asr (d : RegIx) : CanonicalEncoding.Statement (.asr d) :=
  canonicalEncoding_of_canonical rfl rfl
theorem CanonicalEncoding.swap (d : RegIx) : CanonicalEncoding.Statement (.swap d) :=
  canonicalEncoding_of_canonical rfl rfl
theorem CanonicalEncoding.bset (s : BitIx) : CanonicalEncoding.Statement (.bset s) :=
  canonicalEncoding_of_canonical rfl rfl
theorem CanonicalEncoding.bclr (s : BitIx) : CanonicalEncoding.Statement (.bclr s) :=
  canonicalEncoding_of_canonical rfl rfl
theorem CanonicalEncoding.sbi (A : BitVec 5) (b : BitIx) : CanonicalEncoding.Statement (.sbi A b) :=
  canonicalEncoding_of_canonical rfl rfl
theorem CanonicalEncoding.cbi (A : BitVec 5) (b : BitIx) : CanonicalEncoding.Statement (.cbi A b) :=
  canonicalEncoding_of_canonical rfl rfl
theorem CanonicalEncoding.bst (d : RegIx) (b : BitIx) : CanonicalEncoding.Statement (.bst d b) :=
  canonicalEncoding_of_canonical rfl rfl
theorem CanonicalEncoding.bld (d : RegIx) (b : BitIx) : CanonicalEncoding.Statement (.bld d b) :=
  canonicalEncoding_of_canonical rfl rfl
theorem CanonicalEncoding.sec : CanonicalEncoding.Statement (.sec) := fun _ => ⟨rfl, rfl, rfl, rfl⟩
theorem CanonicalEncoding.clc : CanonicalEncoding.Statement (.clc) := fun _ => ⟨rfl, rfl, rfl, rfl⟩
theorem CanonicalEncoding.sen : CanonicalEncoding.Statement (.sen) := fun _ => ⟨rfl, rfl, rfl, rfl⟩
theorem CanonicalEncoding.cln : CanonicalEncoding.Statement (.cln) := fun _ => ⟨rfl, rfl, rfl, rfl⟩
theorem CanonicalEncoding.sez : CanonicalEncoding.Statement (.sez) := fun _ => ⟨rfl, rfl, rfl, rfl⟩
theorem CanonicalEncoding.clz : CanonicalEncoding.Statement (.clz) := fun _ => ⟨rfl, rfl, rfl, rfl⟩
theorem CanonicalEncoding.sei : CanonicalEncoding.Statement (.sei) := fun _ => ⟨rfl, rfl, rfl, rfl⟩
theorem CanonicalEncoding.cli : CanonicalEncoding.Statement (.cli) := fun _ => ⟨rfl, rfl, rfl, rfl⟩
theorem CanonicalEncoding.ses : CanonicalEncoding.Statement (.ses) := fun _ => ⟨rfl, rfl, rfl, rfl⟩
theorem CanonicalEncoding.cls : CanonicalEncoding.Statement (.cls) := fun _ => ⟨rfl, rfl, rfl, rfl⟩
theorem CanonicalEncoding.sev : CanonicalEncoding.Statement (.sev) := fun _ => ⟨rfl, rfl, rfl, rfl⟩
theorem CanonicalEncoding.clv : CanonicalEncoding.Statement (.clv) := fun _ => ⟨rfl, rfl, rfl, rfl⟩
theorem CanonicalEncoding.set : CanonicalEncoding.Statement (.set) := fun _ => ⟨rfl, rfl, rfl, rfl⟩
theorem CanonicalEncoding.clt : CanonicalEncoding.Statement (.clt) := fun _ => ⟨rfl, rfl, rfl, rfl⟩
theorem CanonicalEncoding.seh : CanonicalEncoding.Statement (.seh) := fun _ => ⟨rfl, rfl, rfl, rfl⟩
theorem CanonicalEncoding.clh : CanonicalEncoding.Statement (.clh) := fun _ => ⟨rfl, rfl, rfl, rfl⟩
theorem CanonicalEncoding.brk : CanonicalEncoding.Statement (.brk) := canonicalEncoding_of_canonical rfl rfl
theorem CanonicalEncoding.nop : CanonicalEncoding.Statement (.nop) := canonicalEncoding_of_canonical rfl rfl
theorem CanonicalEncoding.sleep : CanonicalEncoding.Statement (.sleep) := canonicalEncoding_of_canonical rfl rfl
theorem CanonicalEncoding.wdr : CanonicalEncoding.Statement (.wdr) := canonicalEncoding_of_canonical rfl rfl

end Sys2Proof.Laws
end

