-- ==== Sys2Proof/Tests/Slice0.lean ====
section
/-! SUPPORT. Tests: the checks of WellFormed refuse, every constructor's encoding written out from 30_encoding.md, one
step of every instruction with the values of 95_test_vectors.md (sections 1 and 2), and for every obligation with
hypotheses a state and operands that meet them. -/

namespace Sys2Proof.Tests

open Sys2Proof Sys2Proof.Machine

/-! ### WellFormed refuses -/

theorem test_wf_word_pair : (Instr.adiw 25 1).wellFormed = false ∧ (Instr.sbiw 22 1).wellFormed = false := by decide
theorem test_wf_upper : (Instr.ldi 15 0).wellFormed = false ∧ (Instr.sts16 0 15).wellFormed = false := by decide
theorem test_wf_upper_pair : (Instr.muls 16 15).wellFormed = false := by decide
theorem test_wf_middle : (Instr.fmul 24 16).wellFormed = false ∧ (Instr.mulsu 16 15).wellFormed = false := by decide
theorem test_wf_even : (Instr.movw 1 2).wellFormed = false ∧ (Instr.movw 2 1).wellFormed = false := by decide
theorem test_encodable_16bit : (Instr.lds16 16 0).encodableOn .avr = false ∧
    (Instr.sts16 0 16).encodableOn .xmega = false := by decide
theorem test_encodable_displacement : (Instr.lddY 0 32).encodableOn .rc = false ∧
    (Instr.stdZ 32 0).encodableOn .rc = false := by decide

/-! ### Decoding: a word of every constructor, its bits written out from the opcode of its page (R101 to R118) -/

/-- The first word decodes to the instruction's canonical form, and is the instruction's first word. -/
def reads (core : Core) (w w2 : Nat) (i : Instr) : Bool :=
  decide (decode core (BitVec.ofNat 16 w) (BitVec.ofNat 16 w2) = some i.canonical) &&
    decide (firstWord i = BitVec.ofNat 16 w)

theorem test_decode_arithmetic_1 :
    (reads .avr 0b0000110101011010 0 (.add 21 10) &&
      reads .avr 0b0001110101011010 0 (.adc 21 10) &&
      reads .avr 0b1001011010011101 0 (.adiw 26 45) &&
      reads .avr 0b0001100101011010 0 (.sub 21 10) &&
      reads .avr 0b0101101110010100 0 (.subi 25 180) &&
      reads .avr 0b0000100101011010 0 (.sbc 21 10) &&
      reads .avr 0b0100101110010100 0 (.sbci 25 180) &&
      reads .avr 0b1001011110011101 0 (.sbiw 26 45) &&
      reads .avr 0b0010000101011010 0 (.and 21 10) &&
      reads .avr 0b0111101110010100 0 (.andi 25 180) &&
      reads .avr 0b0010100101011010 0 (.or 21 10) &&
      reads .avr 0b0110101110010100 0 (.ori 25 180)) = true := by decide

theorem test_decode_arithmetic_2 :
    (reads .avr 0b0010010101011010 0 (.eor 21 10) &&
      reads .avr 0b1001010101010000 0 (.com 21) &&
      reads .avr 0b1001010101010001 0 (.neg 21) &&
      reads .avr 0b0110101110010100 0 (.sbr 25 180) &&
      reads .avr 0b0111010010011011 0 (.cbr 25 180) &&
      reads .avr 0b1001010101010011 0 (.inc 21) &&
      reads .avr 0b1001010101011010 0 (.dec 21) &&
      reads .avr 0b0010001101010101 0 (.tst 21) &&
      reads .avr 0b0010011101010101 0 (.clr 21) &&
      reads .avr 0b1110111110011111 0 (.ser 25) &&
      reads .avr 0b1001110101011010 0 (.mul 21 10) &&
      reads .avr 0b0000001010010010 0 (.muls 25 18)) = true := by decide

theorem test_decode_arithmetic_3 :
    (reads .avr 0b0000001101010011 0 (.mulsu 21 19) &&
      reads .avr 0b0000001101011011 0 (.fmul 21 19) &&
      reads .avr 0b0000001111010011 0 (.fmuls 21 19) &&
      reads .avr 0b0000001111011011 0 (.fmulsu 21 19) &&
      reads .avr 0b1001010010111011 0 (.des 11)) = true := by decide

theorem test_decode_branch_1 :
    (reads .avr 0b1100101001011100 0 (.rjmp 2652) &&
      reads .avr 0b1001010000001001 0 .ijmp &&
      reads .avr 0b1001010000011001 0 .eijmp &&
      reads .avr 0b1001010101011101 0b0001001000110100 (.jmp 2822708) &&
      reads .avr 0b1101101001011100 0 (.rcall 2652) &&
      reads .avr 0b1001010100001001 0 .icall &&
      reads .avr 0b1001010100011001 0 .eicall &&
      reads .avr 0b1001010101011111 0b0001001000110100 (.call 2822708) &&
      reads .avr 0b1001010100001000 0 .ret &&
      reads .avr 0b1001010100011000 0 .reti &&
      reads .avr 0b0001000101011010 0 (.cpse 21 10) &&
      reads .avr 0b0001010101011010 0 (.cp 21 10)) = true := by decide

theorem test_decode_branch_2 :
    (reads .avr 0b0000010101011010 0 (.cpc 21 10) &&
      reads .avr 0b0011101110010100 0 (.cpi 25 180) &&
      reads .avr 0b1111110010100101 0 (.sbrc 10 5) &&
      reads .avr 0b1111111010100101 0 (.sbrs 10 5) &&
      reads .avr 0b1001100110110101 0 (.sbic 22 5) &&
      reads .avr 0b1001101110110101 0 (.sbis 22 5) &&
      reads .avr 0b1111001010110011 0 (.brbs 3 86) &&
      reads .avr 0b1111011010110011 0 (.brbc 3 86) &&
      reads .avr 0b1111001010110001 0 (.breq 86) &&
      reads .avr 0b1111011010110001 0 (.brne 86) &&
      reads .avr 0b1111001010110000 0 (.brcs 86) &&
      reads .avr 0b1111011010110000 0 (.brcc 86)) = true := by decide

theorem test_decode_branch_3 :
    (reads .avr 0b1111011010110000 0 (.brsh 86) &&
      reads .avr 0b1111001010110000 0 (.brlo 86) &&
      reads .avr 0b1111001010110010 0 (.brmi 86) &&
      reads .avr 0b1111011010110010 0 (.brpl 86) &&
      reads .avr 0b1111011010110100 0 (.brge 86) &&
      reads .avr 0b1111001010110100 0 (.brlt 86) &&
      reads .avr 0b1111001010110101 0 (.brhs 86) &&
      reads .avr 0b1111011010110101 0 (.brhc 86) &&
      reads .avr 0b1111001010110110 0 (.brts 86) &&
      reads .avr 0b1111011010110110 0 (.brtc 86) &&
      reads .avr 0b1111001010110011 0 (.brvs 86) &&
      reads .avr 0b1111011010110011 0 (.brvc 86)) = true := by decide

theorem test_decode_branch_4 :
    (reads .avr 0b1111001010110111 0 (.brie 86) &&
      reads .avr 0b1111011010110111 0 (.brid 86)) = true := by decide

theorem test_decode_data_transfer_1 :
    (reads .avr 0b0010110101011010 0 (.mov 21 10) &&
      reads .avr 0b0000000110100011 0 (.movw 20 6) &&
      reads .avr 0b1110101110010100 0 (.ldi 25 180) &&
      reads .avr 0b1001000101010000 0b0001001000110100 (.lds 21 4660) &&
      reads .rc 0b1010010110010110 0 (.lds16 25 86) &&
      reads .avr 0b1001000101011100 0 (.ldX 21) &&
      reads .avr 0b1001000101011101 0 (.ldXInc 21) &&
      reads .avr 0b1001000101011110 0 (.ldXDec 21) &&
      reads .avr 0b1000000101011000 0 (.ldY 21) &&
      reads .avr 0b1001000101011001 0 (.ldYInc 21) &&
      reads .avr 0b1001000101011010 0 (.ldYDec 21) &&
      reads .avr 0b1010010101011011 0 (.lddY 21 43)) = true := by decide

theorem test_decode_data_transfer_2 :
    (reads .avr 0b1000000101010000 0 (.ldZ 21) &&
      reads .avr 0b1001000101010001 0 (.ldZInc 21) &&
      reads .avr 0b1001000101010010 0 (.ldZDec 21) &&
      reads .avr 0b1010010101010011 0 (.lddZ 21 43) &&
      reads .avr 0b1001001101010000 0b0001001000110100 (.sts 4660 21) &&
      reads .rc 0b1010110110010110 0 (.sts16 86 25) &&
      reads .avr 0b1001001010101100 0 (.stX 10) &&
      reads .avr 0b1001001010101101 0 (.stXInc 10) &&
      reads .avr 0b1001001010101110 0 (.stXDec 10) &&
      reads .avr 0b1000001010101000 0 (.stY 10) &&
      reads .avr 0b1001001010101001 0 (.stYInc 10) &&
      reads .avr 0b1001001010101010 0 (.stYDec 10)) = true := by decide

theorem test_decode_data_transfer_3 :
    (reads .avr 0b1010011010101011 0 (.stdY 43 10) &&
      reads .avr 0b1000001010100000 0 (.stZ 10) &&
      reads .avr 0b1001001010100001 0 (.stZInc 10) &&
      reads .avr 0b1001001010100010 0 (.stZDec 10) &&
      reads .avr 0b1010011010100011 0 (.stdZ 43 10)) = true := by decide

theorem test_decode_program_io_1 :
    (reads .avr 0b1001010111001000 0 .lpmR0 &&
      reads .avr 0b1001000101010100 0 (.lpm 21) &&
      reads .avr 0b1001000101010101 0 (.lpmZInc 21) &&
      reads .avr 0b1001010111011000 0 .elpmR0 &&
      reads .avr 0b1001000101010110 0 (.elpm 21) &&
      reads .avr 0b1001000101010111 0 (.elpmZInc 21) &&
      reads .avr 0b1001010111101000 0 .spm &&
      reads .avr 0b1001010111111000 0 .spmZInc &&
      reads .avr 0b1011010101011101 0 (.inp 21 45) &&
      reads .avr 0b1011110010101101 0 (.out 45 10) &&
      reads .avr 0b1001001101011111 0 (.push 21) &&
      reads .avr 0b1001000101011111 0 (.pop 21)) = true := by decide

theorem test_decode_program_io_2 :
    (reads .avr 0b1001001010100100 0 (.xch 10) &&
      reads .avr 0b1001001010100101 0 (.las 10) &&
      reads .avr 0b1001001010100110 0 (.lac 10) &&
      reads .avr 0b1001001010100111 0 (.lat 10)) = true := by decide

theorem test_decode_bit_test_1 :
    (reads .avr 0b0000111101010101 0 (.lsl 21) &&
      reads .avr 0b1001010101010110 0 (.lsr 21) &&
      reads .avr 0b0001111101010101 0 (.rol 21) &&
      reads .avr 0b1001010101010111 0 (.ror 21) &&
      reads .avr 0b1001010101010101 0 (.asr 21) &&
      reads .avr 0b1001010101010010 0 (.swap 21) &&
      reads .avr 0b1001010000111000 0 (.bset 3) &&
      reads .avr 0b1001010010111000 0 (.bclr 3) &&
      reads .avr 0b1001101010110101 0 (.sbi 22 5) &&
      reads .avr 0b1001100010110101 0 (.cbi 22 5) &&
      reads .avr 0b1111101101010101 0 (.bst 21 5) &&
      reads .avr 0b1111100101010101 0 (.bld 21 5)) = true := by decide

theorem test_decode_bit_test_2 :
    (reads .avr 0b1001010000001000 0 .sec &&
      reads .avr 0b1001010010001000 0 .clc &&
      reads .avr 0b1001010000101000 0 .sen &&
      reads .avr 0b1001010010101000 0 .cln &&
      reads .avr 0b1001010000011000 0 .sez &&
      reads .avr 0b1001010010011000 0 .clz &&
      reads .avr 0b1001010001111000 0 .sei &&
      reads .avr 0b1001010011111000 0 .cli &&
      reads .avr 0b1001010001001000 0 .ses &&
      reads .avr 0b1001010011001000 0 .cls &&
      reads .avr 0b1001010000111000 0 .sev &&
      reads .avr 0b1001010010111000 0 .clv) = true := by decide

theorem test_decode_bit_test_3 :
    (reads .avr 0b1001010001101000 0 .set &&
      reads .avr 0b1001010011101000 0 .clt &&
      reads .avr 0b1001010001011000 0 .seh &&
      reads .avr 0b1001010011011000 0 .clh) = true := by decide

theorem test_decode_control_1 :
    (reads .avr 0b1001010110011000 0 .brk &&
      reads .avr 0b0000000000000000 0 .nop &&
      reads .avr 0b1001010110001000 0 .sleep &&
      reads .avr 0b1001010110101000 0 .wdr) = true := by decide

/-- The unallocated words of section 2.7 are refused by name, and a list that ends early is not read. -/
theorem test_decode_unallocated : ([0x0001, 0x00FF, 0x9003, 0x9008, 0x900B, 0x9203, 0x9208, 0x920B, 0x9404, 0x9528, 0x9429,
    0x95B8, 0xFF08, 0xF808].all fun w => decide (decode .avr (BitVec.ofNat 16 w) 0 = none)) = true := by decide

theorem test_decode_bytes : decodeBytes .avr [0x0E, 0x94, 0x00, 0x04, 0x55] = .instr (.call 0x400) [0x55] ∧
    decodeBytes .avr [0x0E, 0x94, 0x00] = .truncated ∧ decodeBytes .avr [0x01, 0x00] = .unallocated 0x0001 := by decide

/-- The host's numbering: the second word is bits 31..16 (log 18). -/
theorem test_decode_table_word : decodeTableWord 32 0x0400940E = some (.call 0x400) ∧
    decodeTableWord 16 0x940E = some (.call 0) ∧ decodeTableWord 16 0x0C12 = some (.add 1 2) := by decide

/-! ### One step of each instruction (95_test_vectors.md section 2, the words and values as printed there) -/

/-- What one instruction, given by its words, gives on a state: `none` where they do not decode or it does not
complete. -/
def gives {α : Type} (w w2 : Nat) (s : State) (f : State → α) : Option α :=
  match decode s.cfg.core (BitVec.ofNat 16 w) (BitVec.ofNat 16 w2) with
  | some i =>
    match exec i s with
    | .next t => some (f t)
    | .fault _ => none
    | .refused _ => none
  | none => none

/-- The fault of one instruction. -/
def faults (w w2 : Nat) (s : State) : Option FaultInfo :=
  match decode s.cfg.core (BitVec.ofNat 16 w) (BitVec.ofNat 16 w2) with
  | some i =>
    match exec i s with
    | .fault (.fetchOutOfRange w _) => some (.fetchOutOfRange w)
    | .fault (.reservedOpcode pc w _) => some (.reservedOpcode pc w)
    | .fault (.undefinedOperand pc w _) => some (.undefinedOperand pc w)
    | .fault (.dataAccess a _) => some (.dataAccess a)
    | .next _ => none
    | .refused _ => none
  | none => none

/-- The reset state with some registers and SREG. -/
def regs (l : List (RegIx × Byte)) (sreg : Byte) : State :=
  { l.foldl (fun s p => s.setReg p.1 p.2) State.reset with sreg := sreg }

/-- A state at a PC. -/
def at_ (pc : ProgAddr) (s : State) : State := { s with pc := pc }

/-- A state with SP and some SRAM bytes. -/
def ram (sp : Word) (m : Memory) (s : State) : State := { s with sp := sp, sram := m }

/-- A state with a program word. -/
def code (a : Nat) (v : Word) (s : State) : State := { s with prog := Memory.setWord s.prog a v }

/-- A state on an XMEGA device with a 22-bit PC and RAMPZ, the data map of `REF`. -/
def xmega (s : State) : State := { s with cfg := Config.extended { s.cfg with flashEnd := 0x2FFFF } }

/-- A state on a Reduced Core with SRAM from 0x40. -/
def reduced (s : State) : State :=
  { s with cfg := { s.cfg with core := .rc, absent := [], numRegs := .regs16, dataMap := [⟨0x40, 0x80, .sram, 0x40⟩] } }

/-- A state on a device with 24-bit data addresses, all SRAM. -/
def wide (s : State) : State :=
  { s with cfg := { s.cfg with dataWidth := .bits24, dataMap := [⟨0, 0x20000, .sram, 0⟩] } }

/-- What one instruction gives on a state. -/
def after {α : Type} (i : Instr) (s : State) (f : State → α) : Option α :=
  match exec i s with
  | .next t => some (f t)
  | .fault _ => none
  | .refused _ => none

theorem test_add :
    gives 0x0C12 0 (regs [(1, 0x7F), (2, 0x01)] 0x00) (fun t => (t.reg 1, t.sreg)) = some (0x80, 0x2C) := by decide
theorem test_adc :
    gives 0x1C31 0 (regs [(3, 0x00), (1, 0xFF)] 0x01) (fun t => (t.reg 3, t.sreg)) = some (0x00, 0x23) := by decide
theorem test_adiw :
    gives 0x9601 0 (regs [(25, 0xFF), (24, 0xFF)] 0x00)
      (fun t => (t.reg 25, t.reg 24, t.sreg)) = some (0x00, 0x00, 0x03) ∧
    gives 0x9601 0 (regs [(25, 0x7F), (24, 0xFF)] 0x00)
      (fun t => (t.reg 25, t.reg 24, t.sreg)) = some (0x80, 0x00, 0x0C) := by decide
theorem test_sub :
    gives 0x18DC 0 (regs [(13, 0x00), (12, 0x01)] 0x00) (fun t => (t.reg 13, t.sreg)) = some (0xFF, 0x35) ∧
    gives 0x18DC 0 (regs [(13, 0x80), (12, 0x01)] 0x00) (fun t => (t.reg 13, t.sreg)) = some (0x7F, 0x38) := by decide
theorem test_subi :
    gives 0x5161 0 (regs [(22, 0x11)] 0x00) (fun t => (t.reg 22, t.sreg)) = some (0x00, 0x02) := by decide
theorem test_sbc :
    gives 0x0831 0 (regs [(3, 0x00), (1, 0x00)] 0x03) (fun t => (t.reg 3, t.sreg)) = some (0xFF, 0x35) ∧
    gives 0x0831 0 (regs [(3, 0), (1, 0)] 0x00) (fun t => (t.reg 3, t.sreg)) = some (0x00, 0x00) := by decide
theorem test_sbci :
    gives 0x441F 0 (regs [(17, 0x50)] 0x01) (fun t => (t.reg 17, t.sreg)) = some (0x00, 0x20) ∧
    gives 0x441F 0 (regs [(17, 0x50)] 0x03) (fun t => (t.reg 17, t.sreg)) = some (0x00, 0x22) := by decide
theorem test_sbiw :
    gives 0x9701 0 (regs [(25, 0x00), (24, 0x00)] 0x00)
      (fun t => (t.reg 25, t.reg 24, t.sreg)) = some (0xFF, 0xFF, 0x15) ∧
    gives 0x9701 0 (regs [(25, 0x80), (24, 0x00)] 0x00)
      (fun t => (t.reg 25, t.reg 24, t.sreg)) = some (0x7F, 0xFF, 0x18) := by decide
theorem test_and :
    gives 0x2023 0 (regs [(2, 0xF0), (3, 0x8F)] 0x09) (fun t => (t.reg 2, t.sreg)) = some (0x80, 0x15) := by decide
theorem test_andi :
    gives 0x701F 0 (regs [(17, 0xA5)] 0x00) (fun t => (t.reg 17, t.sreg)) = some (0x05, 0x00) := by decide
theorem test_or :
    gives 0x2AF0 0 (regs [(15, 0x01), (16, 0x40)] 0x00) (fun t => (t.reg 15, t.sreg)) = some (0x41, 0x00) := by decide
theorem test_ori :
    gives 0x6F00 0 (regs [(16, 0x0A)] 0x08) (fun t => (t.reg 16, t.sreg)) = some (0xFA, 0x14) := by decide
theorem test_eor :
    gives 0x2606 0 (regs [(0, 0xFF), (22, 0x0F)] 0x00) (fun t => (t.reg 0, t.sreg)) = some (0xF0, 0x14) := by decide
theorem test_com :
    gives 0x9440 0 (regs [(4, 0xFF)] 0x00) (fun t => (t.reg 4, t.sreg)) = some (0x00, 0x03) ∧
    gives 0x9440 0 (regs [(4, 0x55)] 0x00) (fun t => (t.reg 4, t.sreg)) = some (0xAA, 0x15) := by decide
theorem test_neg :
    gives 0x94B1 0 (regs [(11, 0x80)] 0x00) (fun t => (t.reg 11, t.sreg)) = some (0x80, 0x0D) ∧
    gives 0x94B1 0 (regs [(11, 0x10)] 0x00) (fun t => (t.reg 11, t.sreg)) = some (0xF0, 0x15) := by decide
theorem test_inc :
    gives 0x9563 0 (regs [(22, 0x7F)] 0x01) (fun t => (t.reg 22, t.sreg)) = some (0x80, 0x0D) := by decide
theorem test_dec :
    gives 0x951A 0 (regs [(17, 0x80)] 0x00) (fun t => (t.reg 17, t.sreg)) = some (0x7F, 0x18) ∧
    gives 0x951A 0 (regs [(17, 0x01)] 0x01) (fun t => (t.reg 17, t.sreg)) = some (0x00, 0x03) := by decide
theorem test_mul :
    gives 0x9C54 0 (regs [(5, 0xFF), (4, 0xFF)] 0x00)
      (fun t => (t.reg 1, t.reg 0, t.sreg)) = some (0xFE, 0x01, 0x01) ∧
    gives 0x9C10 0 (regs [(1, 0x10), (0, 0x10)] 0xFF)
      (fun t => (t.reg 1, t.reg 0, t.sreg)) = some (0x01, 0x00, 0xFC) := by decide
theorem test_muls :
    gives 0x0254 0 (regs [(21, 0xFF), (20, 0x02)] 0x00)
      (fun t => (t.reg 1, t.reg 0, t.sreg)) = some (0xFF, 0xFE, 0x01) := by decide
theorem test_mulsu :
    gives 0x0374 0 (regs [(23, 0xFF), (20, 0xFF)] 0x00)
      (fun t => (t.reg 1, t.reg 0, t.sreg)) = some (0xFF, 0x01, 0x01) ∧
    gives 0x0374 0 (regs [(23, 0x7F), (20, 0xFF)] 0x00)
      (fun t => (t.reg 1, t.reg 0, t.sreg)) = some (0x7E, 0x81, 0x00) := by decide
theorem test_fmul :
    gives 0x036C 0 (regs [(22, 0xFF), (20, 0xFF)] 0x00)
      (fun t => (t.reg 1, t.reg 0, t.sreg)) = some (0xFC, 0x02, 0x01) ∧
    gives 0x036C 0 (regs [(22, 0x80), (20, 0x80)] 0x00)
      (fun t => (t.reg 1, t.reg 0, t.sreg)) = some (0x80, 0x00, 0x00) := by decide
theorem test_fmuls :
    gives 0x03F6 0 (regs [(23, 0x80), (22, 0x80)] 0x00)
      (fun t => (t.reg 1, t.reg 0, t.sreg)) = some (0x80, 0x00, 0x00) ∧
    gives 0x03F6 0 (regs [(23, 0x40), (22, 0xC0)] 0x00)
      (fun t => (t.reg 1, t.reg 0, t.sreg)) = some (0xE0, 0x00, 0x01) := by decide
theorem test_fmulsu :
    gives 0x03FC 0 (regs [(23, 0x80), (20, 0xFF)] 0x00)
      (fun t => (t.reg 1, t.reg 0, t.sreg)) = some (0x01, 0x00, 0x01) ∧
    gives 0x03FC 0 (regs [(23, 0xC0), (20, 0x80)] 0x00)
      (fun t => (t.reg 1, t.reg 0, t.sreg)) = some (0xC0, 0x00, 0x01) := by decide
theorem test_named_logic :
    after (.sbr 16 3) (regs [(16, 0x80)] 0x00) (fun t => (t.reg 16, t.sreg)) = some (0x83, 0x14) ∧
    after (.cbr 18 1) (regs [(18, 0x01)] 0x00) (fun t => (t.reg 18, t.sreg)) = some (0x00, 0x02) ∧
    after (.tst 0) (regs [(0, 0x80)] 0x08) (fun t => (t.reg 0, t.sreg)) = some (0x80, 0x14) ∧
    after (.clr 18) (regs [(18, 0x99)] 0xFF) (fun t => (t.reg 18, t.sreg)) = some (0x00, 0xE3) ∧
    after (.ser 17) (regs [] 0x5A) (fun t => (t.reg 17, t.sreg)) = some (0xFF, 0x5A) := by decide
theorem test_rjmp :
    gives 0xCFFF 0 (at_ 0x0100 (regs [] 0x00)) (fun t => t.pc) = some 0x0100 ∧
    gives 0xC800 0 (at_ 0x0010 (regs [] 0x00)) (fun t => t.pc) = some 0xF811 := by decide
theorem test_ijmp :
    gives 0x9409 0 (regs [(31, 0x12), (30, 0x34)] 0x00) (fun t => t.pc) = some 0x1234 ∧
    gives 0x9409 0 (xmega (at_ 0x020000 { regs [(31, 0x10), (30, 0x00)] 0x00 with eind := 0x05 }))
      (fun t => t.pc) = some 0x001000 := by decide
theorem test_eijmp :
    gives 0x9419 0 (xmega { regs [(31, 0x10), (30, 0x00)] 0x00 with eind := 0x05 })
      (fun t => t.pc) = some 0x051000 := by decide
theorem test_jmp :
    gives 0x942D 0x1000 (xmega (regs [] 0x00)) (fun t => t.pc) = some 0x051000 ∧
    gives 0x942D 0x1000 (regs [] 0x00) (fun t => t.pc) = some 0x1000 := by decide
theorem test_rcall :
    gives 0xD010 0 (at_ 0x0123 (regs [] 0x00))
      (fun t => (t.pc, t.sp, t.sram)) = some (0x0134, 0x045D, [(0x45E, 0x01), (0x45F, 0x24)]) ∧
    gives 0xD010 0 (xmega (at_ 0x012345 (regs [] 0x00)))
      (fun t => (t.pc, t.sp, t.sram)) = some (0x012356, 0x045C, [(0x45D, 0x01), (0x45E, 0x23), (0x45F, 0x46)]) :=
        by decide
theorem test_icall :
    gives 0x9509 0 (at_ 0x0200 (regs [(31, 0x03), (30, 0x00)] 0x00))
      (fun t => (t.pc, t.sp, t.sram)) = some (0x0300, 0x045D, [(0x45E, 0x02), (0x45F, 0x01)]) := by decide
theorem test_eicall :
    gives 0x9519 0 (xmega (at_ 0x02ABCD { regs [(31, 0x10), (30, 0x00)] 0x00 with eind := 0x05 }))
      (fun t => (t.pc, t.sp, t.sram)) = some (0x051000, 0x045C, [(0x45D, 0x02), (0x45E, 0xAB), (0x45F, 0xCE)]) :=
        by decide
theorem test_call :
    gives 0x940E 0x0400 (at_ 0x01FE (regs [] 0x00))
      (fun t => (t.pc, t.sp, t.sram)) = some (0x0400, 0x045D, [(0x45E, 0x02), (0x45F, 0x00)]) := by decide
theorem test_ret :
    gives 0x9508 0 (ram 0x045D [(0x45E, 0x02), (0x45F, 0x00)] (regs [] 0x00))
      (fun t => (t.pc, t.sp)) = some (0x0200, 0x045F) ∧
    gives 0x9508 0 (xmega (ram 0x045C [(0x45D, 0xC2), (0x45E, 0x34), (0x45F, 0x56)] (regs [] 0x00)))
      (fun t => (t.pc, t.sp)) = some (0x023456, 0x045F) := by decide
theorem test_reti :
    gives 0x9518 0 (ram 0x045D [(0x45E, 0x01), (0x45F, 0x23)] (regs [] 0x02))
      (fun t => (t.pc, t.sp, t.sreg)) = some (0x0123, 0x045F, 0x82) := by decide
theorem test_cpse :
    gives 0x1040 0 (code 1 0x9441 (regs [(4, 5), (0, 5)] 0x00)) (fun t => t.pc) = some 2 ∧
    gives 0x1040 0 (code 1 0x940C (regs [(4, 5), (0, 5)] 0x00)) (fun t => t.pc) = some 3 := by decide
theorem test_cp :
    gives 0x1643 0 (regs [(4, 0x10), (19, 0x20)] 0x00) (fun t => (t.reg 4, t.sreg)) = some (0x10, 0x15) ∧
    gives 0x1643 0 (regs [(4, 0x80), (19, 0x01)] 0x00) (fun t => (t.reg 4, t.sreg)) = some (0x80, 0x38) := by decide
theorem test_cpc :
    gives 0x0431 0 (regs [(3, 0x12), (1, 0x12)] 0x02) (fun t => t.sreg) = some 0x02 ∧
    gives 0x0431 0 (regs [(3, 0x12), (1, 0x12)] 0x03) (fun t => t.sreg) = some 0x35 := by decide
theorem test_cpi :
    gives 0x3033 0 (regs [(19, 3)] 0x00) (fun t => t.sreg) = some 0x02 ∧
    gives 0x3033 0 (regs [(19, 2)] 0x00) (fun t => t.sreg) = some 0x35 := by decide
theorem test_sbrc :
    gives 0xFC07 0 (code 1 0x0000 (regs [(0, 0x7F)] 0x00)) (fun t => t.pc) = some 2 ∧
    gives 0xFC07 0 (regs [(0, 0x80)] 0x00) (fun t => t.pc) = some 1 := by decide
theorem test_sbrs :
    gives 0xFE07 0 (code 1 0x940E (regs [(0, 0x80)] 0x00)) (fun t => (t.pc, t.sp)) = some (3, 0x045F) := by decide
theorem test_sbic :
    gives 0x99E1 0 ((code 1 0x0000 (regs [] 0x00)).setDeviceByte (.io 0x1C) 0xFD) (fun t => t.pc) = some 2 ∧
    gives 0x99E1 0 ((code 1 0x0000 (regs [] 0x00)).setDeviceByte (.io 0x1C) 0x02)
      (fun t => t.pc) = some 1 := by decide
theorem test_sbis :
    gives 0x9B80 0 ((code 1 0x9210 (regs [] 0x00)).setDeviceByte (.io 0x10) 0x01)
      (fun t => t.pc) = some 3 := by decide
theorem test_brbs :
    gives 0xF02E 0 (at_ 0x40 (regs [] 0x40)) (fun t => t.pc) = some 0x46 ∧
    gives 0xF02E 0 (at_ 0x40 (regs [] 0x00)) (fun t => t.pc) = some 0x41 := by decide
theorem test_brbc :
    gives 0xF7E9 0 (at_ 0x40 (regs [] 0x00)) (fun t => t.pc) = some 0x3E ∧
    gives 0xF601 0 (at_ 0x40 (regs [] 0x00)) (fun t => t.pc) = some 0x01 := by decide
theorem test_branches_on_set :
    after (.breq 2) (regs [] 0x02) (fun t => t.pc) = some 3 ∧
    after (.brcs 2) (regs [] 0x01) (fun t => t.pc) = some 3 ∧
    after (.brlo 2) (regs [] 0x01) (fun t => t.pc) = some 3 ∧
    after (.brmi 2) (regs [] 0x04) (fun t => t.pc) = some 3 ∧
    after (.brlt 2) (regs [] 0x10) (fun t => t.pc) = some 3 ∧
    after (.brhs 2) (regs [] 0x20) (fun t => t.pc) = some 3 ∧
    after (.brts 2) (regs [] 0x40) (fun t => t.pc) = some 3 ∧
    after (.brvs 2) (regs [] 0x08) (fun t => t.pc) = some 3 ∧
    after (.brie 2) (regs [] 0x80) (fun t => t.pc) = some 3 ∧
    after (.breq 2) (regs [] (~~~0x02)) (fun t => t.pc) = some 1 ∧
    after (.brcs 2) (regs [] (~~~0x01)) (fun t => t.pc) = some 1 ∧
    after (.brlo 2) (regs [] (~~~0x01)) (fun t => t.pc) = some 1 ∧
    after (.brmi 2) (regs [] (~~~0x04)) (fun t => t.pc) = some 1 ∧
    after (.brlt 2) (regs [] (~~~0x10)) (fun t => t.pc) = some 1 ∧
    after (.brhs 2) (regs [] (~~~0x20)) (fun t => t.pc) = some 1 ∧
    after (.brts 2) (regs [] (~~~0x40)) (fun t => t.pc) = some 1 ∧
    after (.brvs 2) (regs [] (~~~0x08)) (fun t => t.pc) = some 1 ∧
    after (.brie 2) (regs [] (~~~0x80)) (fun t => t.pc) = some 1 := by decide
theorem test_branches_on_clear :
    after (.brne 2) (regs [] (~~~0x02)) (fun t => t.pc) = some 3 ∧
    after (.brcc 2) (regs [] (~~~0x01)) (fun t => t.pc) = some 3 ∧
    after (.brsh 2) (regs [] (~~~0x01)) (fun t => t.pc) = some 3 ∧
    after (.brpl 2) (regs [] (~~~0x04)) (fun t => t.pc) = some 3 ∧
    after (.brge 2) (regs [] (~~~0x10)) (fun t => t.pc) = some 3 ∧
    after (.brhc 2) (regs [] (~~~0x20)) (fun t => t.pc) = some 3 ∧
    after (.brtc 2) (regs [] (~~~0x40)) (fun t => t.pc) = some 3 ∧
    after (.brvc 2) (regs [] (~~~0x08)) (fun t => t.pc) = some 3 ∧
    after (.brid 2) (regs [] (~~~0x80)) (fun t => t.pc) = some 3 ∧
    after (.brne 2) (regs [] 0x02) (fun t => t.pc) = some 1 ∧
    after (.brcc 2) (regs [] 0x01) (fun t => t.pc) = some 1 ∧
    after (.brsh 2) (regs [] 0x01) (fun t => t.pc) = some 1 ∧
    after (.brpl 2) (regs [] 0x04) (fun t => t.pc) = some 1 ∧
    after (.brge 2) (regs [] 0x10) (fun t => t.pc) = some 1 ∧
    after (.brhc 2) (regs [] 0x20) (fun t => t.pc) = some 1 ∧
    after (.brtc 2) (regs [] 0x40) (fun t => t.pc) = some 1 ∧
    after (.brvc 2) (regs [] 0x08) (fun t => t.pc) = some 1 ∧
    after (.brid 2) (regs [] 0x80) (fun t => t.pc) = some 1 := by decide
theorem test_mov :
    gives 0x2D00 0 (regs [(0, 0xA5)] 0x81) (fun t => (t.reg 16, t.sreg)) = some (0xA5, 0x81) := by decide
theorem test_movw :
    gives 0x0180 0 (regs [(1, 0x12), (0, 0x34)] 0x00)
      (fun t => (t.reg 17, t.reg 16, t.sreg)) = some (0x12, 0x34, 0x00) := by decide
theorem test_ldi : gives 0xEFE0 0 (regs [] 0x00) (fun t => (t.reg 30, t.sreg)) = some (0xF0, 0x00) := by decide
theorem test_lds :
    gives 0x9020 0x0100 (ram 0x045F [(0x100, 0x5A)] (regs [] 0x00)) (fun t => (t.reg 2, t.pc)) = some (0x5A, 2) ∧
    gives 0x9020 0x0100 (wide { ram 0x045F [(0x10100, 0x5B)] (regs [] 0x00) with rampD := 1 })
      (fun t => t.reg 2) = some 0x5B := by decide
theorem test_lds16 :
    gives 0xA000 0 (reduced (ram 0x045F [(0x80, 0x42)] (regs [] 0x00))) (fun t => (t.reg 16, t.pc)) = some (0x42, 1) ∧
    ([0x00, 0x10, 0x3F, 0x40, 0x7F].map fun k => (shortAddr k).toNat) = [0x80, 0x40, 0x5F, 0xA0, 0x7F] := by decide
theorem test_ld_x :
    gives 0x900C 0 (ram 0x045F [(0x100, 0x11)] (regs [(27, 0x01), (26, 0x00)] 0x00))
      (fun t => (t.reg 0, t.reg 27, t.reg 26)) = some (0x11, 0x01, 0x00) := by decide
theorem test_ld_x_inc :
    gives 0x900D 0 (ram 0x045F [(0xFF, 0x22)] (regs [(27, 0x00), (26, 0xFF)] 0x00))
      (fun t => (t.reg 0, t.reg 27, t.reg 26)) = some (0x22, 0x01, 0x00) ∧
    gives 0x900D 0 (wide (ram 0x045F [(0xFFFF, 0x23)] (regs [(27, 0xFF), (26, 0xFF)] 0x00)))
      (fun t => (t.reg 0, t.rampX, t.reg 27, t.reg 26)) = some (0x23, 0x01, 0x00, 0x00) := by decide
theorem test_ld_x_dec :
    gives 0x900E 0 (ram 0x045F [(0xFF, 0x33)] (regs [(27, 0x01), (26, 0x00)] 0x00))
      (fun t => (t.reg 0, t.reg 27, t.reg 26)) = some (0x33, 0x00, 0xFF) := by decide
theorem test_ld_y :
    gives 0x8048 0 (ram 0x045F [(0x100, 0x67)] (regs [(29, 0x01), (28, 0x00)] 0x00))
      (fun t => (t.reg 4, t.reg 29, t.reg 28)) = some (0x67, 0x01, 0x00) := by decide
theorem test_ld_y_inc :
    gives 0x9059 0 (ram 0x045F [(0x1FF, 0x44)] (regs [(29, 0x01), (28, 0xFF)] 0x00))
      (fun t => (t.reg 5, t.reg 29, t.reg 28)) = some (0x44, 0x02, 0x00) := by decide
theorem test_ld_y_dec :
    gives 0x905A 0 (ram 0x045F [(0x1FF, 0x44)] (regs [(29, 0x02), (28, 0x00)] 0x00))
      (fun t => (t.reg 5, t.reg 29, t.reg 28)) = some (0x44, 0x01, 0xFF) ∧
    gives 0x905A 0 (wide { ram 0x045F [(0xFFFF, 0x45)] (regs [(29, 0x00), (28, 0x00)] 0x00) with rampY := 1 })
      (fun t => (t.reg 5, t.rampY, t.reg 29, t.reg 28)) = some (0x45, 0x00, 0xFF, 0xFF) := by decide
theorem test_ldd_y :
    gives 0xAC4F 0 (ram 0x045F [(0x13F, 0x55)] (regs [(29, 0x01), (28, 0x00)] 0x00))
      (fun t => (t.reg 4, t.reg 29, t.reg 28)) = some (0x55, 0x01, 0x00) := by decide
theorem test_ld_z :
    gives 0x8060 0 (ram 0x045F [(0x100, 0x68)] (regs [(31, 0x01), (30, 0x00)] 0x00))
      (fun t => (t.reg 6, t.reg 31, t.reg 30)) = some (0x68, 0x01, 0x00) := by decide
theorem test_ld_z_inc :
    gives 0x9061 0 (ram 0x045F [(0x100, 0x69)] (regs [(31, 0x01), (30, 0x00)] 0x00))
      (fun t => (t.reg 6, t.reg 31, t.reg 30)) = some (0x69, 0x01, 0x01) := by decide
theorem test_ld_z_dec :
    gives 0x9062 0 (ram 0x045F [(0xFF, 0x6A)] (regs [(31, 0x01), (30, 0x00)] 0x00))
      (fun t => (t.reg 6, t.reg 31, t.reg 30)) = some (0x6A, 0x00, 0xFF) := by decide
theorem test_ldd_z :
    gives 0x8061 0 (ram 0x045F [(0x101, 0x6B)] (regs [(31, 0x01), (30, 0x00)] 0x00))
      (fun t => (t.reg 6, t.reg 31, t.reg 30)) = some (0x6B, 0x01, 0x00) ∧
    gives 0x8002 0 (wide (ram 0x045F [(0x10001, 0x6C)] (regs [(31, 0xFF), (30, 0xFF)] 0x00)))
      (fun t => (t.reg 0, t.rampZ, t.reg 31, t.reg 30)) = some (0x6C, 0x00, 0xFF, 0xFF) := by decide
theorem test_named_loads :
    after (.ldY 4) (ram 0x045F [(0x100, 0x67)] (regs [(29, 1)] 0x00)) (fun t => t.reg 4) = some 0x67 ∧
    after (.ldZ 6) (ram 0x045F [(0x100, 0x68)] (regs [(31, 1)] 0x00)) (fun t => t.reg 6) = some 0x68 := by decide
theorem test_sts :
    gives 0x9220 0x0100 (regs [(2, 0x99)] 0x00) (fun t => (t.sram, t.pc)) = some ([(0x100, 0x99)], 2) ∧
    gives 0x9220 0x005D (regs [(2, 0x34)] 0x00) (fun t => (t.sp, t.sram)) = some (0x0434, []) := by decide
theorem test_sts16 :
    gives 0xA910 0 (reduced (regs [(17, 0x24)] 0x00))
      (fun t => (t.sram, t.pc)) = some ([(0x40, 0x24)], 1) := by decide
theorem test_st_x :
    gives 0x921C 0 (regs [(27, 0x01), (26, 0x00), (1, 0x5A)] 0x00)
      (fun t => (t.sram, t.reg 27, t.reg 26)) = some ([(0x100, 0x5A)], 0x01, 0x00) := by decide
theorem test_st_x_inc :
    gives 0x921D 0 (regs [(27, 0x01), (26, 0xFF), (1, 0x5A)] 0x00)
      (fun t => (t.sram, t.reg 27, t.reg 26)) = some ([(0x1FF, 0x5A)], 0x02, 0x00) ∧
    gives 0x925D 0 (regs [(27, 0x00), (26, 0x1A), (5, 0x77)] 0x00)
      (fun t => (t.reg 27, t.reg 26)) = some (0x00, 0x1B) := by decide
theorem test_st_x_dec :
    gives 0x921E 0 (regs [(27, 0x02), (26, 0x00), (1, 0x5A)] 0x00)
      (fun t => (t.sram, t.reg 27, t.reg 26)) = some ([(0x1FF, 0x5A)], 0x01, 0xFF) := by decide
theorem test_st_y :
    gives 0x8218 0 (regs [(29, 0x01), (28, 0x00), (1, 0x5A)] 0x00)
      (fun t => (t.sram, t.reg 29, t.reg 28)) = some ([(0x100, 0x5A)], 0x01, 0x00) := by decide
theorem test_st_y_inc :
    gives 0x9219 0 (regs [(29, 0x01), (28, 0x00), (1, 0x5A)] 0x00)
      (fun t => (t.sram, t.reg 29, t.reg 28)) = some ([(0x100, 0x5A)], 0x01, 0x01) := by decide
theorem test_st_y_dec :
    gives 0x921A 0 (regs [(29, 0x01), (28, 0x00), (1, 0x5A)] 0x00)
      (fun t => (t.sram, t.reg 29, t.reg 28)) = some ([(0xFF, 0x5A)], 0x00, 0xFF) := by decide
theorem test_std_y :
    gives 0x824A 0 (regs [(29, 0x00), (28, 0x62), (4, 0x5A)] 0x00)
      (fun t => (t.sram, t.reg 29, t.reg 28)) = some ([(0x64, 0x5A)], 0x00, 0x62) := by decide
theorem test_st_z :
    gives 0x8210 0 (regs [(31, 0x01), (30, 0x00), (1, 0x5A)] 0x00)
      (fun t => (t.sram, t.reg 31, t.reg 30)) = some ([(0x100, 0x5A)], 0x01, 0x00) := by decide
theorem test_st_z_inc :
    gives 0x9211 0 (regs [(31, 0x01), (30, 0x00), (1, 0x5A)] 0x00)
      (fun t => (t.sram, t.reg 31, t.reg 30)) = some ([(0x100, 0x5A)], 0x01, 0x01) := by decide
theorem test_st_z_dec :
    gives 0x9212 0 (regs [(31, 0x01), (30, 0x00), (1, 0x5A)] 0x00)
      (fun t => (t.sram, t.reg 31, t.reg 30)) = some ([(0xFF, 0x5A)], 0x00, 0xFF) := by decide
theorem test_std_z :
    gives 0xAE47 0 (regs [(31, 0x01), (30, 0x00), (4, 0x5A)] 0x00)
      (fun t => (t.sram, t.reg 31, t.reg 30)) = some ([(0x13F, 0x5A)], 0x01, 0x00) := by decide
theorem test_named_stores :
    after (.stY 1) (regs [(29, 1), (1, 0x5A)] 0x00) (fun t => t.sram) = some [(0x100, 0x5A)] ∧
    after (.stZ 1) (regs [(31, 1), (1, 0x5A)] 0x00) (fun t => t.sram) = some [(0x100, 0x5A)] := by decide
theorem test_lpm_r0 :
    gives 0x95C8 0 (code 0x78 0x5876 (regs [(31, 0x00), (30, 0xF0)] 0x00)) (fun t => t.reg 0) = some 0x76 ∧
    gives 0x95C8 0 (code 0x78 0x5876 (regs [(31, 0x00), (30, 0xF1)] 0x00)) (fun t => t.reg 0) = some 0x58 := by decide
theorem test_lpm :
    gives 0x9104 0 (code 0x100 0x5876 (regs [(31, 0x02), (30, 0x00)] 0x00))
      (fun t => (t.reg 16, t.reg 31, t.reg 30)) = some (0x76, 0x02, 0x00) := by decide
theorem test_lpm_z_inc :
    gives 0x9105 0 (code 0x100 0x5876 (regs [(31, 0x02), (30, 0x01)] 0x00))
      (fun t => (t.reg 16, t.reg 31, t.reg 30)) = some (0x58, 0x02, 0x02) := by decide
theorem test_elpm_r0 :
    gives 0x95D8 0 (xmega (code 0x8000 0x3738 { regs [(31, 0), (30, 0)] 0x00 with rampZ := 1 }))
      (fun t => t.reg 0) = some 0x38 := by decide
theorem test_elpm :
    gives 0x9106 0 (xmega (code 0x8000 0x3738 { regs [(31, 0), (30, 1)] 0x00 with rampZ := 1 }))
      (fun t => t.reg 16) = some 0x37 := by decide
theorem test_elpm_z_inc :
    gives 0x9107 0 (xmega (code 0x7FFF 0x3738 { regs [(31, 0xFF), (30, 0xFF)] 0x00 with rampZ := 0 }))
      (fun t => (t.reg 16, t.rampZ, t.reg 31, t.reg 30)) = some (0x37, 0x01, 0x00, 0x00) := by decide
theorem test_spm :
    gives 0x95E8 0 (xmega (regs [(31, 0x01), (30, 0x00)] 0x00))
      (fun t => (t.pc, t.reg 31, t.reg 30)) = some (1, 0x01, 0x00) := by decide
theorem test_spm_write_word :
    spmProg .writeWord 0x100 0x1234 State.reset [] = [(0x100, 0x34), (0x101, 0x12)] := by decide
theorem test_spm_z_inc :
    gives 0x95F8 0 (xmega (regs [(31, 0x00), (30, 0xFE)] 0x00))
      (fun t => (t.reg 31, t.reg 30)) = some (0x01, 0x00) := by decide
theorem test_in :
    gives 0xB396 0 ((regs [] 0x00).setDeviceByte (.io 0x16) 0x04) (fun t => t.reg 25) = some 0x04 ∧
    gives 0xB70F 0 (regs [] 0x83) (fun t => t.reg 16) = some 0x83 := by decide
theorem test_out :
    gives 0xBB08 0 (regs [(16, 0x00)] 0x00) (fun t => t.dev.bytes) = some [(0x18, 0x00)] ∧
    gives 0xBE0D 0 (regs [(0, 0x12)] 0x00) (fun t => t.sp) = some 0x0412 := by decide
theorem test_push :
    gives 0x92EF 0 (regs [(14, 0xAB)] 0x00) (fun t => (t.sram, t.sp)) = some ([(0x45F, 0xAB)], 0x045E) ∧
    gives 0x930F 0 (ram 0x005F [] (regs [(16, 0x81)] 0x00))
      (fun t => (t.sreg, t.sp)) = some (0x81, 0x005E) := by decide
theorem test_pop :
    gives 0x90DF 0 (ram 0x045D [(0x45E, 0xCD)] (regs [] 0x00))
      (fun t => (t.reg 13, t.sp)) = some (0xCD, 0x045E) := by decide
theorem test_xch :
    gives 0x9304 0 (xmega (ram 0x045F [(0x100, 0x55)] (regs [(31, 1), (16, 0xAA)] 0x00)))
      (fun t => (t.sram, t.reg 16)) = some ([(0x100, 0xAA)], 0x55) := by decide
theorem test_las :
    gives 0x9305 0 (xmega (ram 0x045F [(0x100, 0x55)] (regs [(31, 1), (16, 0x0F)] 0x00)))
      (fun t => (t.sram, t.reg 16)) = some ([(0x100, 0x5F)], 0x55) := by decide
theorem test_lac :
    gives 0x9306 0 (xmega (ram 0x045F [(0x100, 0x55)] (regs [(31, 1), (16, 0x0F)] 0x00)))
      (fun t => (t.sram, t.reg 16)) = some ([(0x100, 0x50)], 0x55) := by decide
theorem test_lat :
    gives 0x9307 0 (xmega (ram 0x045F [(0x100, 0x55)] (regs [(31, 1), (16, 0x0F)] 0x00)))
      (fun t => (t.sram, t.reg 16)) = some ([(0x100, 0x5A)], 0x55) := by decide
theorem test_lsl :
    after (.lsl 16) (regs [(16, 0xC8)] 0x00) (fun t => (t.reg 16, t.sreg)) = some (0x90, 0x35) ∧
    after (.lsl 16) (regs [(16, 0x80)] 0x00) (fun t => (t.reg 16, t.sreg)) = some (0x00, 0x1B) := by decide
theorem test_lsr :
    gives 0x9506 0 (regs [(16, 0x01)] 0x00) (fun t => (t.reg 16, t.sreg)) = some (0x00, 0x1B) ∧
    gives 0x9506 0 (regs [(16, 0xFE)] 0x00) (fun t => (t.reg 16, t.sreg)) = some (0x7F, 0x00) := by decide
theorem test_rol :
    after (.rol 19) (regs [(19, 0x80)] 0x01) (fun t => (t.reg 19, t.sreg)) = some (0x01, 0x19) ∧
    after (.rol 0) (regs [(0, 0x40)] 0x00) (fun t => (t.reg 0, t.sreg)) = some (0x80, 0x0C) := by decide
theorem test_ror :
    gives 0x9527 0 (regs [(18, 0x02)] 0x01) (fun t => (t.reg 18, t.sreg)) = some (0x81, 0x0C) ∧
    gives 0x9527 0 (regs [(18, 0x01)] 0x00) (fun t => (t.reg 18, t.sreg)) = some (0x00, 0x1B) := by decide
theorem test_asr :
    gives 0x9515 0 (regs [(17, 0xFC)] 0x00) (fun t => (t.reg 17, t.sreg)) = some (0xFE, 0x0C) ∧
    gives 0x9405 0 (regs [(0, 0x81)] 0x00) (fun t => (t.reg 0, t.sreg)) = some (0xC0, 0x15) := by decide
theorem test_swap :
    gives 0x9412 0 (regs [(1, 0xA5)] 0x33) (fun t => (t.reg 1, t.sreg)) = some (0x5A, 0x33) := by decide
theorem test_bset :
    gives 0x9468 0 (regs [] 0x00) (fun t => t.sreg) = some 0x40 ∧
    gives 0x9478 0 (regs [] 0x7F) (fun t => (t.sreg, t.irqInhibit)) = some (0xFF, true) := by decide
theorem test_bclr :
    gives 0x9488 0 (regs [] 0xFF) (fun t => t.sreg) = some 0xFE ∧
    gives 0x94F8 0 (regs [] 0xFF) (fun t => (t.sreg, t.irqInhibit)) = some (0x7F, false) := by decide
theorem test_sbi :
    gives 0x9AE0 0 ((regs [] 0x00).setDeviceByte (.io 0x1C) 0x00)
      (fun t => t.dev.bytes) = some [(0x1C, 0x01)] := by decide
theorem test_cbi :
    gives 0x9897 0 ((regs [] 0x00).setDeviceByte (.io 0x12) 0xFF)
      (fun t => t.dev.bytes) = some [(0x12, 0x7F)] := by decide
theorem test_bst :
    gives 0xFA12 0 (regs [(1, 0x04)] 0x00) (fun t => t.sreg) = some 0x40 ∧
    gives 0xFA12 0 (regs [(1, 0xFB)] 0xFF) (fun t => t.sreg) = some 0xBF := by decide
theorem test_bld :
    gives 0xF804 0 (regs [(0, 0x00)] 0x40) (fun t => (t.reg 0, t.sreg)) = some (0x10, 0x40) ∧
    gives 0xF804 0 (regs [(0, 0xFF)] 0x00) (fun t => (t.reg 0, t.sreg)) = some (0xEF, 0x00) := by decide
theorem test_set_flags :
    after (.sec) (regs [] 0x00) (fun t => t.sreg) = some 0x01 ∧
    after (.sez) (regs [] 0x00) (fun t => t.sreg) = some 0x02 ∧
    after (.sen) (regs [] 0x00) (fun t => t.sreg) = some 0x04 ∧
    after (.sev) (regs [] 0x00) (fun t => t.sreg) = some 0x08 ∧
    after (.ses) (regs [] 0x00) (fun t => t.sreg) = some 0x10 ∧
    after (.seh) (regs [] 0x00) (fun t => t.sreg) = some 0x20 ∧
    after (.set) (regs [] 0x00) (fun t => t.sreg) = some 0x40 ∧
    after (.sei) (regs [] 0x00) (fun t => t.sreg) = some 0x80 := by decide
theorem test_clear_flags :
    after (.clc) (regs [] 0xFF) (fun t => t.sreg) = some 0xFE ∧
    after (.clz) (regs [] 0xFF) (fun t => t.sreg) = some 0xFD ∧
    after (.cln) (regs [] 0xFF) (fun t => t.sreg) = some 0xFB ∧
    after (.clv) (regs [] 0xFF) (fun t => t.sreg) = some 0xF7 ∧
    after (.cls) (regs [] 0xFF) (fun t => t.sreg) = some 0xEF ∧
    after (.clh) (regs [] 0xFF) (fun t => t.sreg) = some 0xDF ∧
    after (.clt) (regs [] 0xFF) (fun t => t.sreg) = some 0xBF ∧
    after (.cli) (regs [] 0xFF) (fun t => t.sreg) = some 0x7F := by decide
theorem test_sei_inhibits : after (.sei) (regs [] 0x00) (fun t => t.irqInhibit) = some true := by decide
theorem test_break :
    gives 0x9598 0 (regs [] 0x00) (fun t => (t.pc, t.run)) = some (1, RunState.running) ∧
    gives 0x9598 0 ({ State.reset with cfg := { Config.reference with ocdEnabled := true } })
      (fun t => (t.pc, t.run)) = some (1, RunState.stopped) := by decide
theorem test_nop :
    gives 0x0000 0 (at_ 0x0010 (regs [(7, 9)] 0x55))
      (fun t => (t.reg 7, t.sreg, t.pc)) = some (9, 0x55, 0x0011) := by decide
theorem test_sleep :
    gives 0x9588 0 (at_ 0x0020 (regs [] 0x00))
      (fun t => (t.pc, t.run)) = some (0x0021, RunState.sleeping) := by decide
theorem test_wdr :
    gives 0x95A8 0 (at_ 0x0030 (regs [] 0x00)) (fun t => (t.pc, t.dev)) = some (0x0031, Device.reset) := by decide
theorem test_des :
    gives 0x940B 0 (regs [] 0x20) (fun t => (t.pc, t.sreg, t.reg 16)) = some (1, 0x20, 0) := by decide
theorem test_undefined_operand :
    faults 0x91AD 0 (at_ 0x12 (regs [] 0x00)) = some (.undefinedOperand 0x12 0x91AD) ∧
    faults 0x91E5 0 (regs [] 0x00) = some (.undefinedOperand 0 0x91E5) := by decide
theorem test_data_faults :
    faults 0x9000 0x0460 (regs [] 0x00) = some (.dataAccess 0x460) ∧
    faults 0x9200 0x0460 (regs [] 0x00) = some (.dataAccess 0x460) ∧
    faults 0x900F 0 (regs [] 0x00) = some (.dataAccess 0x460) ∧
    faults 0x940E 0x0100 (ram 0x0460 [] (regs [] 0x00)) = some (.dataAccess 0x460) := by decide
theorem test_fetch_faults :
    faults 0x95C8 0 (regs [(31, 0x40), (30, 0x00)] 0x00) = some (.fetchOutOfRange 0x2000) ∧
    faults 0xFC00 0 (at_ 0x1FFF (regs [] 0x00)) = some (.fetchOutOfRange 0x2000) := by decide

/-! ### Steps (95_test_vectors.md section 4, and section 2.7) -/

/-- What a step gives. -/
def stepGives {α : Type} (s : State) (f : State → α) : Option α :=
  match step s with
  | .next t => some (f t)
  | .fault _ => none
  | .refused _ => none

/-- The state a faulting step leaves, with the fault. -/
def stepFault (s : State) : Option RunState :=
  match step s with
  | .fault (.fetchOutOfRange _ t) => some t.run
  | .fault (.reservedOpcode _ _ t) => some t.run
  | .fault (.undefinedOperand _ _ t) => some t.run
  | .fault (.dataAccess _ t) => some t.run
  | .next _ => none
  | .refused _ => none

/-- The test device of section 4: one pending request with vector 2. -/
def pending (s : State) : State := { s with dev := { s.dev with requests := [⟨1, 2⟩] } }

/-- T1 step 3: no entry right after SEI. -/
theorem test_step_sei : stepGives (pending (at_ 5 (code 5 0x9478 (regs [] 0))))
    (fun t => (t.pc, t.sreg, t.irqInhibit, t.sp)) =
    some (6, 0x80, true, 0x045F) := by decide

/-- T1 step 4: the entry after the next instruction. -/
theorem test_step_entry : stepGives (pending { at_ 6 (code 6 0x0000 (regs [] 0x80)) with irqInhibit := true })
    (fun t => (t.pc, t.sreg, t.irqInhibit)) = some (2, 0x00, false) ∧
    stepGives (pending { at_ 6 (code 6 0x0000 (regs [] 0x80)) with irqInhibit := true }) (fun t => (t.sp, t.sram)) =
      some (0x045D, [(0x45E, 0x00), (0x45F, 0x07)]) ∧
    stepGives (pending { at_ 6 (code 6 0x0000 (regs [] 0x80)) with irqInhibit := true }) (fun t => t.dev.requests) =
      some [] := by decide

/-- T2 step 3: SLEEP, then the entry wakes the core in the same step. -/
theorem test_step_sleep_wakes : stepGives (pending { at_ 5 (code 5 0x9588 (regs [] 0x80)) with irqInhibit := true })
    (fun t => (t.pc, t.run, t.sram)) = some (2, RunState.running, [(0x45E, 0x00), (0x45F, 0x06)]) := by decide

/-- T3: CLI masks at once, OUT to SREG has no delay. -/
theorem test_step_cli : stepGives (pending (at_ 0x10 (code 0x10 0x94F8 (regs [] 0x80)))) (fun t => (t.pc, t.sreg)) =
    some (0x11, 0x00) := by decide
theorem test_step_out_sreg : stepGives (pending (at_ 0x10 (code 0x10 0xBF0F (regs [(16, 0x80)] 0))))
    (fun t => (t.pc, t.sreg, t.sram)) = some (2, 0x00, [(0x45E, 0x00), (0x45F, 0x11)]) := by decide

/-- T4: three bytes with a 22-bit PC. -/
theorem test_step_entry_long : stepGives (pending (xmega (at_ 0x012344 (code 0x012344 0x0000 (regs [] 0x80)))))
    (fun t => (t.pc, t.sram)) = some (2, [(0x45D, 0x01), (0x45E, 0x23), (0x45F, 0x45)]) := by decide

/-- T5: the faults of fetch, decoding and the second word, and their order. -/
theorem test_step_faults : stepFault (at_ 0x2000 (regs [] 0)) = some (.faulted (.fetchOutOfRange 0x2000)) ∧
    stepFault (at_ 1 (code 1 0x0001 (regs [] 0))) = some (.faulted (.reservedOpcode 1 0x0001)) ∧
    stepFault (at_ 0x1FFF (code 0x1FFF 0x940C (regs [] 0))) = some (.faulted (.fetchOutOfRange 0x2000)) ∧
    stepFault (code 0 0x9419 (regs [] 0)) = some (.faulted (.reservedOpcode 0 0x9419)) := by decide

/-- A step of the instruction that `withFetchWord` places (log 19). -/
theorem test_step_placed : stepGives (State.reset.withFetchWord 16 0xEF0F)
    (fun t => (t.reg 16, t.pc)) = some (0xFF, 1) ∧
    stepGives (State.reset.withFetchWord 32 0x1234940C) (fun t => t.pc) = some 0x1234 ∧
    stepGives (State.reset.withFetchWord 16 0x9304) (fun t => t.pc) = some 1 := by decide

/-! ### A state and operands that meet the hypotheses of each obligation

Named after the obligation; a second name part says which clause, where a statement has several. -/

theorem next_of_after {i : Instr} {s : State} (h : after i s (fun _ => ()) = some ()) : ∃ t, exec i s = .next t := by
  unfold after at h
  cases e : exec i s <;> simp_all

theorem next_of_step {α : Type} {s : State} {f : State → α} {v : α} (h : stepGives s f = some v) :
    ∃ t, step s = .next t ∧ f t = v := by
  unfold stepGives at h
  cases e : step s <;> simp_all

/-- A state whose device asks for a reset at the next tick. -/
def resetting (s : State) : State := { s with dev := { s.dev with inputs := [[.requestReset]] } }

/-- A device with flash mapped into the data space. -/
def mappedFlash : State :=
  { State.reset with cfg := { State.reset.cfg with dataMap := [⟨0, 0x100, .sram, 0⟩, ⟨0x4000, 0x5000, .flash, 0⟩] } }

/-- A state with an external device. -/
def externalDevice : State := { State.reset with cfg := { State.reset.cfg with device := .external } }

/-- A state with the parameter function as SpmOp, Z and RAMPZ at the last word of flash. -/
def functionSpmDevice : State :=
  let s := xmega { regs [(31, 0xFF), (30, 0xFE)] 0 with rampZ := 0x05 }
  { s with cfg := { s.cfg with spmOp := some (.function 64) } }

/-- A device whose Avail has LD Rd,Y but not LDD Rd,Y+q, and neither ST Z,Rr nor STD Z+q,Rr. -/
def fewerLoads : Config := { Config.reference with absent := [.lddY, .stZ, .stdZ] }

/-- Each form is a member of Avail of its own (42_data_transfer_load_store.md R260; log 30). -/
theorem test_availability : admits fewerLoads (.ldY 1) = true ∧ admits fewerLoads (.lddY 1 0) = true ∧
    admits fewerLoads (.lddY 1 1) = false ∧ admits fewerLoads (.stZ 1) = false ∧ admits fewerLoads (.stdZ 0 1) = false ∧
    admits fewerLoads (.ldZ 1) = true ∧ admits fewerLoads (.add 1 2) = true := by decide

theorem test_witness_DecodeEncode : (Instr.call 0x3FFFFF).wellFormed = true ∧
    (Instr.call 0x3FFFFF).encodableOn .avr = true ∧ (Instr.sts16 0x7F 31).wellFormed = true ∧
    (Instr.sts16 0x7F 31).encodableOn .rc = true := by decide

theorem test_witness_EncodeDecode : decode .avr 0x95FF 0xFFFF = some (.call 0x3FFFFF) ∧
    decode .rc 0xAFFF 0 = some (.sts16 0x7F 31) := by decide

theorem test_witness_LengthByFirstWord : decode .avr 0x91F0 0xFFFF = some (.lds 31 0xFFFF) ∧
    decode .avr 0x9508 0 = some .ret := by decide

theorem test_witness_OperandFields : decode .avr 0xB7FF 0 = some (.inp 31 63) ∧
    decode .avr 0xBE00 0 = some (.out 48 0) ∧
    decode .avr 0x9AFF 0 = some (.sbi 31 7) ∧ decode .avr 0x9800 0 = some (.cbi 0 0) ∧
    decode .avr 0x99F8 0 = some (.sbic 31 0) ∧ decode .avr 0x9B07 0 = some (.sbis 0 7) := by decide
theorem test_witness_OperandFields_bits : decode .avr 0xFBF7 0 = some (.bst 31 7) ∧
    decode .avr 0xF800 0 = some (.bld 0 0) ∧ decode .avr 0xFDF7 0 = some (.sbrc 31 7) ∧
    decode .avr 0xFE00 0 = some (.sbrs 0 0) := by decide
theorem test_witness_OperandFields_flags : decode .avr 0x9478 0 = some (.bset 7) ∧
    decode .avr 0x9488 0 = some (.bclr 0) ∧ decode .avr 0xF207 0 = some (.brbs 7 0x40) ∧
    decode .avr 0xF5F8 0 = some (.brbc 0 0x3F) := by decide
theorem test_witness_OperandFields_devices : State.reset.cfg.device = .reference ∧
    cpuRegAt { State.reset.cfg with ioSreg := 0x1F } (((0x9AFF : Word).extractLsb' 3 5).setWidth 6) = some .sreg ∧
    (7 : BitIx).val = ((0x9AFF : Word).extractLsb' 0 3).toNat ∧ externalDevice.cfg.device = .external ∧
    cpuRegAt externalDevice.cfg (((0x9AFF : Word).extractLsb' 3 5).setWidth 6) = none := by decide

theorem test_witness_StepRunsDecoded : (code 0 0x0C12 State.reset).run = .running ∧
    (code 0 0x0C12 State.reset).pc.toNat ≤ (code 0 0x0C12 State.reset).cfg.flashEnd ∧
    decode .avr ((code 0 0x0C12 State.reset).progWord 0) ((code 0 0x0C12 State.reset).progWord 1) = some (.add 1 2) ∧
    admits Config.reference (.add 1 2) = true ∧ isTwoWord ((code 0 0x0C12 State.reset).progWord 0) = false := by decide

/-- CALL 0x1FFF in the last two words. -/
def lastCall : State := at_ 0x1FFE (code 0x1FFF 0x1FFF (code 0x1FFE 0x940E State.reset))

theorem test_witness_StepRunsDecoded_two_words : lastCall.run = .running ∧ lastCall.pc.toNat ≤ lastCall.cfg.flashEnd ∧
    decode lastCall.cfg.core (lastCall.progWord lastCall.pc.toNat) (lastCall.progWord (lastCall.pcPlus 1).toNat) =
      some (.call 0x1FFF) ∧
    admits lastCall.cfg (.call 0x1FFF) = true ∧ (lastCall.pcPlus 1).toNat = lastCall.cfg.flashEnd := by decide

theorem test_witness_FetchChecks_range : (at_ 0x2000 State.reset).run = .running ∧
    (at_ 0x2000 State.reset).cfg.flashEnd < (at_ 0x2000 State.reset).pc.toNat := by decide
theorem test_witness_FetchChecks_reserved : (at_ 0x1FFF (code 0x1FFF 0x0001 State.reset)).run = .running ∧
    (at_ 0x1FFF (code 0x1FFF 0x0001 State.reset)).pc.toNat ≤ Config.reference.flashEnd ∧
    ∀ i, decode .avr ((at_ 0x1FFF (code 0x1FFF 0x0001 State.reset)).progWord 0x1FFF) 0 = some i →
      admits Config.reference i = false := by
  refine ⟨by decide, by decide, fun i h => ?_⟩
  rw [show decode .avr ((at_ 0x1FFF (code 0x1FFF 0x0001 State.reset)).progWord 0x1FFF) 0 = none from by decide] at h
  cases h
theorem test_witness_FetchChecks_absent : (code 0 0x9419 State.reset).run = .running ∧
    ∀ i, decode .avr ((code 0 0x9419 State.reset).progWord 0) 0 = some i → admits Config.reference i = false := by
  refine ⟨by decide, fun i h => ?_⟩
  rw [show decode .avr ((code 0 0x9419 State.reset).progWord 0) 0 = some .eijmp from by decide] at h
  cases h
  decide
theorem test_witness_FetchChecks_second : (at_ 0x1FFF (code 0x1FFF 0x940C State.reset)).run = .running ∧
    (at_ 0x1FFF (code 0x1FFF 0x940C State.reset)).pc.toNat = Config.reference.flashEnd ∧
    decode .avr ((at_ 0x1FFF (code 0x1FFF 0x940C State.reset)).progWord 0x1FFF) 0 = some (.jmp 0) ∧
    admits Config.reference (.jmp 0) = true ∧
    isTwoWord ((at_ 0x1FFF (code 0x1FFF 0x940C State.reset)).progWord 0x1FFF) = true ∧
    Config.reference.flashEnd < nextWord (at_ 0x1FFF (code 0x1FFF 0x940C State.reset)) := by decide

theorem test_witness_StepKeepsInvariant :
    Inv (at_ 0x1FFF (code 0x1FFF 0x0000 (ram 0x45F [(0x60, 1), (0x45F, 2)] State.reset))) ∧
    ∃ t, step (at_ 0x1FFF (code 0x1FFF 0x0000 (ram 0x45F [(0x60, 1), (0x45F, 2)] State.reset))) = .next t := by
  refine ⟨⟨by decide, by decide, by decide, by decide, by decide, ?_, by decide, by decide, ?_, fun f h => ?_⟩, ?_⟩
  · intro c hc
    refine ⟨c.1, ?_⟩
    have h : ∀ c ∈ (at_ 0x1FFF (code 0x1FFF 0x0000 (ram 0x45F [(0x60, 1), (0x45F, 2)] State.reset))).sram,
      place Config.reference c.1 = .sram c.1 := by decide
    exact h c hc
  · intro r; cases r <;> decide
  · cases h
  · obtain ⟨t, h, -⟩ := next_of_step (f := fun t => t.pc) (v := 0x2000)
      (s := at_ 0x1FFF (code 0x1FFF 0x0000 (ram 0x45F [(0x60, 1), (0x45F, 2)] State.reset))) (by decide)
    exact ⟨t, h⟩

theorem test_witness_ProgramMemoryOnlyBySpm : (∃ t, exec (.add 1 2) State.reset = .next t) ∧
    Instr.add 1 2 ≠ .spm ∧ Instr.add 1 2 ≠ .spmZInc := ⟨next_of_after (by decide), by decide, by decide⟩
theorem test_witness_ProgramMemoryOnlyBySpm_step : State.reset.cfg.spmOp = none ∧
    ∃ t, step (code 0 0x0C12 State.reset) = .next t ∧ t.pc = 1 := ⟨by decide, next_of_step (by decide)⟩

theorem test_witness_ControlStateFrame : (∃ t, exec (.out 0x3F 1) State.reset = .next t) ∧
    (∃ t, exec .sleep State.reset = .next t) ∧ ∃ t, exec .sei State.reset = .next t :=
  ⟨next_of_after (by decide), next_of_after (by decide), next_of_after (by decide)⟩
theorem test_witness_ControlStateFrame_spm : (∀ size, (xmega State.reset).cfg.spmOp ≠ some (.function size)) ∧
    (∃ t, exec .spm (xmega State.reset) = .next t) ∧ ∃ t, exec .spmZInc functionSpmDevice = .next t :=
  ⟨by rw [show (xmega State.reset).cfg.spmOp = some (.listed 64) from rfl]; simp, ⟨_, rfl⟩, _, rfl⟩

theorem test_witness_FlagFrame : (∃ t, exec (.adc 1 2) State.reset = .next t) ∧ writesData (.adc 1 2) = false ∧
    (∃ t, exec (.ldXInc 1) (ram 0x45F [(0, 0)] State.reset) = .next t) ∧ writesData (.ldXInc 1) = false :=
  ⟨next_of_after (by decide), rfl, next_of_after (by decide), rfl⟩

theorem test_witness_SeiDelaysInterrupts : (pending (code 0 0x9478 State.reset)).run = .running ∧
    (pending (code 0 0x9478 State.reset)).pc.toNat ≤ Config.reference.flashEnd ∧
    devResetRequested (devTick (pending (code 0 0x9478 State.reset))) = false ∧
    (pending (code 0 0x9478 State.reset)).progWord 0 = 0x9478 ∧ admits Config.reference (.bset 7) = true := by decide
theorem test_witness_SeiDelaysInterrupts_cli :
    (pending (at_ 0x1FFF (code 0x1FFF 0x94F8 (regs [] 0x80)))).run = .running ∧
    (pending (at_ 0x1FFF (code 0x1FFF 0x94F8 (regs [] 0x80)))).pc.toNat ≤ Config.reference.flashEnd ∧
    devResetRequested (devTick (pending (at_ 0x1FFF (code 0x1FFF 0x94F8 (regs [] 0x80))))) = false ∧
    (pending (at_ 0x1FFF (code 0x1FFF 0x94F8 (regs [] 0x80)))).progWord 0x1FFF = 0x94F8 ∧
    admits Config.reference (.bclr 7) = true := by decide

theorem test_witness_InhibitOnlyAfterSei : ∃ t, step (code 0 0x9478 State.reset) = .next t ∧ t.irqInhibit = true :=
  next_of_step (by decide)

theorem test_witness_InterruptAcceptance_reset : devResetRequested (devTick (resetting State.reset)) = true := by decide
theorem test_witness_InterruptAcceptance_entry :
    devResetRequested (devTick (pending { regs [] 0x80 with irqInhibit := true })) = false ∧
    devIrq { devTick (pending { regs [] 0x80 with irqInhibit := true }) with irqInhibit := false } = some ⟨1, 2⟩ ∧
    (pending { regs [] 0x80 with irqInhibit := true }).run = .running ∧
    (pending { regs [] 0x80 with irqInhibit := true }).flag flagI = true := by decide
theorem test_witness_InterruptAcceptance_entry_sleeping :
    devResetRequested (devTick (pending { regs [] 0x80 with run := .sleeping })) = false ∧
    devIrq { devTick (pending { regs [] 0x80 with run := .sleeping }) with irqInhibit := true && false } = some ⟨1, 2⟩ ∧
    (pending { regs [] 0x80 with run := .sleeping }).run = .sleeping ∧
    (pending { regs [] 0x80 with run := .sleeping }).flag flagI = true ∧
    (pending { regs [] 0x80 with run := .sleeping }).irqInhibit = false := by decide
theorem test_witness_InterruptAcceptance_none : devResetRequested (devTick (regs [] 0x80)) = false ∧
    devIrq { devTick (regs [] 0x80) with irqInhibit := false } = none ∧ (regs [] 0x00).flag flagI = false ∧
    { regs [] 0x80 with run := .stopped }.run = .stopped ∧ { regs [] 0x80 with irqInhibit :=
      true }.irqInhibit = true := by
  decide

theorem test_witness_NotRunningSteps : { State.reset with run := .stopped }.run = .stopped ∧
    { State.reset with run := .faulted (.dataAccess 0x460) }.run = .faulted (.dataAccess 0x460) ∧
    (pending { State.reset with run := .sleeping }).run = .sleeping ∧
    (pending { State.reset with run := .sleeping }).flag flagI = false ∧
    devResetRequested (devTick (pending { State.reset with run := .sleeping })) = false := by decide
theorem test_witness_NotRunningSteps_wakes : ∃ (s : State) (r : Request) (u t : State), s.run = .sleeping ∧
    s.flag flagI = true ∧ devResetRequested (devTick s) = false ∧ u = { devTick s with irqInhibit := false } ∧
    devIrq u = some r ∧ interruptEntry r u = .ok () t :=
  ⟨pending { regs [] 0x80 with run := .sleeping }, ⟨1, 2⟩, _, _, rfl, by decide, by decide, rfl, rfl, rfl⟩
theorem test_witness_NotRunningSteps_reset : (resetting { State.reset with run := .sleeping }).run = .sleeping ∧
    devResetRequested (devTick (resetting { State.reset with run := .sleeping })) = true := by decide

/-- The two stack bytes at RAMEND, to be pushed. -/
theorem push_bytes_two : PushBytes State.reset (pcBytes State.reset.cfg) (fun k => 0x45F - k) := by
  refine ⟨by decide, fun j k hj hk h => ?_⟩
  have : pcBytes State.reset.cfg = 2 := by decide
  dsimp only at h
  omega
/-- Three of them, with a 22-bit PC, down to the first SRAM byte. -/
theorem push_bytes_three : PushBytes (ram 0x62 [] (xmega State.reset)) (pcBytes (ram 0x62 [] (xmega State.reset)).cfg)
    (fun k => 0x62 - k) := by
  refine ⟨by decide, fun j k hj hk h => ?_⟩
  have : pcBytes (ram 0x62 [] (xmega State.reset)).cfg = 3 := by decide
  dsimp only at h
  omega
/-- The bytes to be popped, up to RAMEND. -/
theorem pop_bytes_two : PopBytes (ram 0x45D [] State.reset) (pcBytes State.reset.cfg) (fun k => 0x45E + k) := by
  unfold PopBytes; decide
theorem pop_bytes_three : PopBytes (ram 0x45C [] (xmega State.reset)) (pcBytes (ram 0x45C [] (xmega State.reset)).cfg)
    (fun k => 0x45D + k) := by
  unfold PopBytes; decide

theorem test_witness_InterruptEntry : (∃ b, State.reset.pc.toNat < 2 ^ pcBits State.reset.cfg.pcWidth ∧
      PushBytes State.reset (pcBytes State.reset.cfg) b) ∧
    (at_ 0x3FFFFF (ram 0x62 [] (xmega State.reset))).pc.toNat < 2 ^ pcBits .bits22 ∧
    ∃ b, PushBytes (at_ 0x3FFFFF (ram 0x62 [] (xmega State.reset))) 3 b :=
  ⟨⟨_, by decide, push_bytes_two⟩, by decide, _, push_bytes_three⟩
theorem test_witness_InterruptEntry_ok : ∃ u, pushPc State.reset.pc State.reset = .ok () u := ⟨_, rfl⟩
theorem test_witness_InterruptEntry_stop :
    ∃ f u, pushPc (ram 0x460 [] State.reset).pc (ram 0x460 [] State.reset) = .stop f u := ⟨_, _, rfl⟩

theorem test_witness_DataAccesses : readable State.reset 0x45F = true ∧ readable State.reset 0x460 = false ∧
    writable State.reset 0 = true ∧ writable State.reset 0x460 = false ∧ Memory.wf State.reset.sram = true := by decide
theorem test_witness_DataAccesses_flash : readable mappedFlash 0x4000 = true ∧ readable mappedFlash 0x7FFF = true ∧
    readable mappedFlash 0x8000 = false ∧ writable mappedFlash 0x4000 = false := by decide

theorem test_witness_IoRegisters : cpuRegAt Config.reference 0x3F = some .sreg ∧
    cpuRegAt Config.reference 0x3E = some .sph ∧
    cpuRegExists Config.reference .spl = true ∧ cpuRegAt Config.reference 0x3B = none ∧
    cpuRegAt (xmega State.reset).cfg 0x3C = some .eind ∧ cpuRegAt (wide State.reset).cfg 0x38 = some .rampD := by decide

theorem test_witness_ReferenceDevice : State.reset.cfg.device = .reference ∧ IoLoc.io 63 ≠ .ext 0 ∧
    State.reset.dev.inputs = [] ∧ State.reset.dev.requests = [] ∧ State.reset.dev.resetRequested = false := by decide

theorem test_witness_PushReturnAddress : (∃ b, PushBytes State.reset (pcBytes State.reset.cfg) b) ∧
    (0xFFFF : ProgAddr).toNat < 2 ^ pcBits State.reset.cfg.pcWidth ∧
    (∃ b, PushBytes (ram 0x62 [] (xmega State.reset)) (pcBytes (ram 0x62 [] (xmega State.reset)).cfg) b) ∧
    (0x3FFFFF : ProgAddr).toNat < 2 ^ pcBits (xmega State.reset).cfg.pcWidth :=
  ⟨⟨_, push_bytes_two⟩, by decide, ⟨_, push_bytes_three⟩, by decide⟩

theorem test_witness_PopInvertsPush : (∃ b, PushBytes State.reset (pcBytes State.reset.cfg) b) ∧
    State.reset.sp = wrapSp State.reset.cfg State.reset.sp ∧ (0xFFFF :
      ProgAddr).toNat < 2 ^ pcBits State.reset.cfg.pcWidth ∧
    ∃ u, pushPc 0xFFFF State.reset = .ok () u :=
  ⟨⟨_, push_bytes_two⟩, by decide, by decide, _, rfl⟩
theorem test_witness_PopInvertsPush_pop : (∃ b, PopBytes (ram 0x45D [] State.reset) (pcBytes State.reset.cfg) b) ∧
    ∃ b, PopBytes (ram 0x45C [] (xmega State.reset)) (pcBytes (ram 0x45C [] (xmega State.reset)).cfg) b :=
  ⟨⟨_, pop_bytes_two⟩, _, pop_bytes_three⟩

theorem test_witness_ProgramBytes : 0x3FFF / 2 ≤ State.reset.cfg.flashEnd ∧ State.reset.cfg.flashEnd < 0x4000 / 2 := by
  decide

theorem test_witness_CompareOrders : ∃ (i : Instr) (s : State) (d : RegIx) (x : Byte),
    (∃ r, x = s.reg r ∧ (i = .cp d r ∨ i = .sub d r)) ∧ s.reg d = 0x80 ∧ x = 0x7F :=
  ⟨.cp 1 2, regs [(1, 0x80), (2, 0x7F)] 0, 1, 0x7F, ⟨2, by decide, .inl rfl⟩, by decide, rfl⟩
theorem test_witness_CompareOrders_immediate : ∃ (i : Instr) (s : State) (d : RegIx) (x : Byte),
    (i = .cpi d x ∨ i = .subi d x) ∧ s.reg d = x := ⟨.subi 16 0xFF, regs [(16, 0xFF)] 0, 16, 0xFF, .inr rfl, by decide⟩

theorem test_witness_WordSubtraction : ∃ (d d' r r' : RegIx) (s : State) (a b : Nat),
    a = (s.reg d').toNat * 256 + (s.reg d).toNat ∧ b = (s.reg r').toNat * 256 + (s.reg r).toNat ∧ d' ≠ d ∧ r' ≠ d ∧
      a < b :=
  ⟨24, 25, 0, 1, regs [(24, 0xFF), (1, 0x01)] 0, 0xFF, 0x100, by decide, by decide, by decide, by decide, by decide⟩

theorem test_witness_WordImmediates : ∃ (d : RegIx) (s : State) (W : Nat),
    W = (s.reg (d + 1)).toNat * 256 + (s.reg d).toNat ∧ W = 0xFFFF :=
  ⟨24, regs [(24, 0xFF), (25, 0xFF)] 0, 0xFFFF, by decide, rfl⟩

theorem test_witness_DesRound : ∃ (s : State) (D Q : BitVec 64),
    (∀ k : Fin 8, D.toNat / 256 ^ k.val % 256 = (s.reg (Fin.ofNat 32 k.val)).toNat) ∧
    (∀ k : Fin 8, Q.toNat / 256 ^ k.val % 256 = (s.reg (Fin.ofNat 32 (8 + k.val))).toNat) :=
  ⟨regs [(0, 0x11), (7, 0xFF), (8, 0x22), (15, 0x80)] 0x20, 0xFF00000000000011, 0x8000000000000022, by decide, by decide⟩

theorem test_witness_Calls : (3 : ProgAddr).toNat = ((at_ 2 State.reset).pc.toNat + 1) % 2 ^ pcBits State.reset.cfg.pcWidth ∧
    (∃ b, PushBytes (at_ 2 State.reset) (pcBytes State.reset.cfg) b) ∧ (∃ u, pushPc 3 (at_ 2 State.reset) = .ok () u) ∧
    ∃ f u, pushPc 3 (at_ 2 (ram 0x460 [] State.reset)) = .stop f u :=
  ⟨by decide, ⟨_, push_bytes_two⟩, ⟨_, rfl⟩, _, _, rfl⟩
theorem test_witness_Calls_wrap : (1 : ProgAddr).toNat =
      ((at_ 0x3FFFFF (ram 0x62 [] (xmega State.reset))).pc.toNat + 2) % 2 ^ pcBits (xmega State.reset).cfg.pcWidth ∧
    ∃ b, PushBytes (at_ 0x3FFFFF (ram 0x62 [] (xmega State.reset))) (pcBytes (xmega State.reset).cfg) b :=
  ⟨by decide, _, push_bytes_three⟩

theorem test_witness_Returns : (∃ b, PopBytes (ram 0x45D [] State.reset) (pcBytes State.reset.cfg) b) ∧
    (∃ b, PopBytes (ram 0x45C [] (xmega State.reset)) (pcBytes (xmega State.reset).cfg) b) ∧
    (∃ ra u, popPc (ram 0x45D [] State.reset) = .ok ra u) ∧ ∃ f u, popPc (ram 0x45E [] State.reset) = .stop f u :=
  ⟨⟨_, pop_bytes_two⟩, ⟨_, pop_bytes_three⟩, ⟨_, _, rfl⟩, _, _, rfl⟩

theorem test_witness_Skips : decide ((regs [(1, 1)] 0).reg 1 = (regs [(1, 1)] 0).reg 2) = false ∧
    decide (State.reset.reg 1 = State.reset.reg 2) = true ∧
      nextWord (at_ 0x1FFE State.reset) = State.reset.cfg.flashEnd ∧
    State.reset.cfg.flashEnd < nextWord (at_ 0x1FFF State.reset) ∧ isTwoWord 0x940E = true := by decide
theorem test_witness_Skips_io : getBit (ioRead (BitVec.setWidth 6 (31 : BitVec 5)) { State.reset with dev :=
    { State.reset.dev with bytes := [(31, 0x80)] } }).1 7 = true ∧
    getBit (ioRead (BitVec.setWidth 6 (0 : BitVec 5)) { State.reset with dev := { State.reset.dev with bytes :=
      [(0, 0x80)] } }).1 0 = false := by
  decide

theorem test_witness_PlainLoads : readable (regs [(27, 0x04), (26, 0x5F)] 0)
    (pointer .x (regs [(27, 0x04), (26, 0x5F)] 0)) = true ∧
    readable (regs [(29, 0x04), (28, 0x60)] 0) (pointer .y (regs [(29, 0x04), (28, 0x60)] 0)) = false ∧
    readable State.reset (direct 0x045F State.reset) = true ∧ readable State.reset (direct 0xFFFF State.reset) = false ∧
    readable (wide { State.reset with rampD := 1 }) (direct 0xFFFF (wide { State.reset with rampD :=
      1 })) = true := by decide
theorem test_witness_PlainLoads_disp : (pointer .z (regs [(31, 0xFF), (30, 0xFF)] 0) + (63 : BitVec 6).toNat) %
      dataModulus (regs [(31, 0xFF), (30, 0xFF)] 0) = 62 ∧ readable (regs [(31, 0xFF), (30, 0xFF)] 0) 62 = true ∧
    readable (reduced State.reset) 0xBF = true ∧ readable (reduced State.reset) 0xC0 = false := by decide

theorem test_witness_MovingLoads : (0 : RegIx) ≠ Pointer.lo .x ∧ (0 : RegIx) ≠ Pointer.lo .x + 1 ∧
    readable (regs [(27, 0x04), (26, 0x5F)] 0) (pointer .x (regs [(27, 0x04), (26, 0x5F)] 0)) = true ∧
    readable (regs [(27, 0x04), (26, 0x60)] 0) (pointer .x (regs [(27, 0x04), (26, 0x60)] 0)) = false ∧
    readable (regs [(29, 0x04), (28, 0x60)] 0) (decremented .y (regs [(29, 0x04), (28, 0x60)] 0)) = true ∧
    readable State.reset (decremented .z State.reset) = false := by decide

theorem test_witness_PlainStores : writable (regs [(27, 0x04), (26, 0x5F)] 0)
    (pointer .x (regs [(27, 0x04), (26, 0x5F)] 0)) = true ∧
    writable (regs [(29, 0x04), (28, 0x60)] 0) (pointer .y (regs [(29, 0x04), (28, 0x60)] 0)) = false ∧
    writable State.reset (direct 0x0000 State.reset) = true ∧ writable State.reset (direct 0x0460 State.reset) = false ∧
    writable mappedFlash (direct 0x4000 mappedFlash) = false := by decide

theorem test_witness_MovingStores : (31 : RegIx) ≠ Pointer.lo .y ∧ (31 : RegIx) ≠ Pointer.lo .y + 1 ∧
    writable (regs [(29, 0x04), (28, 0x5F)] 0) (pointer .y (regs [(29, 0x04), (28, 0x5F)] 0)) = true ∧
    writable (regs [(29, 0x04), (28, 0x60)] 0) (pointer .y (regs [(29, 0x04), (28, 0x60)] 0)) = false ∧
    writable (regs [(29, 0x04), (28, 0x60)] 0) (decremented .y (regs [(29, 0x04), (28, 0x60)] 0)) = true ∧
    writable State.reset (decremented .y State.reset) = false := by decide

theorem test_witness_UndefinedCombinations : ∃ (i : Instr) (w : Word), i = .elpmZInc 31 ∧ (i, w) ∈
      [(Instr.ldXInc 26, (0x91AD : Word)), (.ldXInc 27, 0x91BD), (.ldXDec 26, 0x91AE), (.ldXDec 27, 0x91BE), (.ldYInc 28, 0x91C9),
       (.ldYInc 29, 0x91D9), (.ldYDec 28, 0x91CA), (.ldYDec 29, 0x91DA), (.ldZInc 30, 0x91E1), (.ldZInc 31, 0x91F1),
       (.ldZDec 30, 0x91E2), (.ldZDec 31, 0x91F2), (.stXInc 26, 0x93AD), (.stXInc 27, 0x93BD), (.stXDec 26, 0x93AE),
       (.stXDec 27, 0x93BE), (.stYInc 28, 0x93C9), (.stYInc 29, 0x93D9), (.stYDec 28, 0x93CA), (.stYDec 29, 0x93DA),
       (.stZInc 30, 0x93E1), (.stZInc 31, 0x93F1), (.stZDec 30, 0x93E2), (.stZDec 31, 0x93F2),
       (.lpmZInc 30, 0x91E5), (.lpmZInc 31, 0x91F5), (.elpmZInc 30, 0x91E7), (.elpmZInc 31, 0x91F7)] :=
  ⟨.elpmZInc 31, 0x91F7, rfl, by decide⟩

theorem test_witness_ProgramLoads : ∃ (d : RegIx) (s : State) (i : Instr) (x : RegIx) (a : Nat),
    ((i = .lpmR0 ∧ x = 0 ∨ i = .lpm d ∧ x = d) ∧ a = (s.reg 31).toNat * 256 + (s.reg 30).toNat) ∧
      a / 2 = s.cfg.flashEnd :=
  ⟨31, regs [(31, 0x3F), (30, 0xFF)] 0, .lpm 31, 31, 0x3FFF, ⟨.inr ⟨rfl, rfl⟩, by decide⟩, by decide⟩
theorem test_witness_ProgramLoads_extended : ∃ (d : RegIx) (s : State) (i : Instr) (x : RegIx) (a : Nat),
    ((i = .elpmR0 ∧ x = 0 ∨ i = .elpm d ∧ x = d) ∧
      a = s.rampZ.toNat * 65536 + (s.reg 31).toNat * 256 + (s.reg 30).toNat) ∧ s.cfg.flashEnd < a / 2 :=
  ⟨0, xmega { State.reset with rampZ := 0xFF }, .elpmR0, 0, 0xFF0000, ⟨.inl ⟨rfl, rfl⟩, by decide⟩, by decide⟩
theorem test_witness_ProgramLoads_bounds : (0x4000 :
    Nat) = ((regs [(31, 0x40)] 0).reg 31).toNat * 256 + ((regs [(31, 0x40)] 0).reg 30).toNat ∧
    State.reset.cfg.flashEnd < 0x4000 / 2 ∧
    (0x5FFFF : Nat) = (0x05 : Byte).toNat * 65536 + (0xFF : Byte).toNat * 256 + (0xFF : Byte).toNat ∧
    0x5FFFF / 2 = (xmega State.reset).cfg.flashEnd := by decide

theorem test_witness_ProgramLoadsIncrement : ∃ (d : RegIx) (s : State) (z : Nat), d ≠ 30 ∧ d ≠ 31 ∧
    z = (s.reg 31).toNat * 256 + (s.reg 30).toNat ∧ z / 2 = s.cfg.flashEnd :=
  ⟨29, regs [(31, 0x3F), (30, 0xFF)] 0, 0x3FFF, by decide, by decide, by decide, by decide⟩
theorem test_witness_ProgramLoadsIncrement_above : ∃ (d : RegIx) (s : State) (z : Nat), d ≠ 30 ∧ d ≠ 31 ∧
    z = (s.reg 31).toNat * 256 + (s.reg 30).toNat ∧ s.cfg.flashEnd < z / 2 :=
  ⟨0, regs [(31, 0x40)] 0, 0x4000, by decide, by decide, by decide, by decide⟩
theorem test_witness_ProgramLoadsIncrement_extended : ∃ (s : State) (z a : Nat),
    z = (s.reg 31).toNat * 256 + (s.reg 30).toNat ∧ a = s.rampZ.toNat * 65536 + z ∧ a / 2 = s.cfg.flashEnd ∧
      z = 0xFFFF :=
  ⟨xmega { regs [(31, 0xFF), (30, 0xFF)] 0 with rampZ := 0x05 }, 0xFFFF, 0x5FFFF, by decide, by decide, by decide, rfl⟩
theorem test_witness_ProgramLoadsIncrement_extended_above : ∃ (s : State) (z a : Nat),
    z = (s.reg 31).toNat * 256 + (s.reg 30).toNat ∧ a = s.rampZ.toNat * 65536 + z ∧ s.cfg.flashEnd < a / 2 :=
  ⟨xmega { State.reset with rampZ := 0x06 }, 0, 0x60000, by decide, by decide, by decide⟩

theorem test_witness_StoreProgram : ∃ (s : State) (size a : Nat), s.cfg.spmOp = some (.listed size) ∧ 0 < size ∧
    a = (if s.cfg.progGt64k then s.rampZ.toNat else 0) * 65536 + (s.reg 31).toNat * 256 + (s.reg 30).toNat :=
  ⟨xmega { regs [(31, 0xFF), (30, 0xFE)] 0 with rampZ := 0x05 }, 64, 0x5FFFE, by decide, by decide, by decide⟩
theorem test_witness_StoreProgram_function : functionSpmDevice.cfg.spmOp = some (.function 64) ∧
    0x5FFFE = (if functionSpmDevice.cfg.progGt64k then functionSpmDevice.rampZ.toNat else 0) * 65536 +
      (functionSpmDevice.reg 31).toNat * 256 + (functionSpmDevice.reg 30).toNat ∧
    0x5FFFE / 2 = functionSpmDevice.cfg.flashEnd ∧ 0x2FFBF / 64 ≠ 0x5FFFE / 2 / 64 ∧ 0 % 64 ≠ 0x5FFFE / 2 % 64 ∧
    62 % 64 ≠ 0x5FFFE / 2 % 64 := by decide

theorem test_witness_PushPop : writable State.reset State.reset.sp.toNat = true ∧
    writable (ram 0x460 [] State.reset) (ram 0x460 [] State.reset).sp.toNat = false ∧
    readable (ram 0x45E [] State.reset) (spUp (ram 0x45E [] State.reset) 1).toNat = true ∧
    readable State.reset (spUp State.reset 1).toNat = false ∧
    place State.reset.cfg State.reset.sp.toNat = .sram 0x45F ∧
      State.reset.sp = wrapSp State.reset.cfg State.reset.sp := by
  decide

theorem test_witness_Exchanges : writable (regs [(31, 0x04), (30, 0x5F)] 0)
    (pointer .z (regs [(31, 0x04), (30, 0x5F)] 0)) = true ∧
    writable (regs [(31, 0x04), (30, 0x60)] 0) (pointer .z (regs [(31, 0x04), (30, 0x60)] 0)) = false := by decide
theorem test_witness_Exchanges_flash :
    readable { mappedFlash with regs := (regs [(31, 0x40)] 0).regs } (pointer .z (regs [(31, 0x40)] 0)) = true ∧
    writable { mappedFlash with regs := (regs [(31, 0x40)] 0).regs } (pointer .z (regs [(31, 0x40)] 0)) = false :=
      by decide

theorem test_witness_Shifts : ∃ (d : RegIx) (s : State) (a c : Nat), a = (s.reg d).toNat ∧ c = (s.flag flagC).toNat ∧
    a = 0xFF ∧ c = 1 := ⟨31, regs [(31, 0xFF)] 0x01, 0xFF, 1, by decide, by decide, rfl, rfl⟩

theorem test_witness_WordShifts : ∃ (l h : RegIx) (s : State) (W : BitVec 16), l ≠ h ∧ W = s.reg h ++ s.reg l ∧
    W = 0x8001 := ⟨24, 25, regs [(24, 0x01), (25, 0x80)] 0, 0x8001, by decide, by decide, rfl⟩

theorem test_witness_FlagInstructions : ∃ (n : BitIx) (v : Bool) (i : Instr), (i = .bset n ∧ v = true) ∧ n = 7 :=
  ⟨7, true, .bset 7, ⟨rfl, rfl⟩, rfl⟩
theorem test_witness_FlagInstructions_named : (∃ (n : BitIx) (v : Bool) (i : Instr), i = .bclr n ∧ v = false ∧ n = 0) ∧
    (Instr.clh, flagH, false) ∈
      [(Instr.sec, flagC, true), (.clc, flagC, false), (.sen, flagN, true), (.cln, flagN, false), (.sez, flagZ, true),
       (.clz, flagZ, false), (.sei, flagI, true), (.cli, flagI, false), (.ses, flagS, true), (.cls, flagS, false),
       (.sev, flagV, true), (.clv, flagV, false), (.set, flagT, true), (.clt, flagT, false), (.seh, flagH, true),
       (.clh, flagH, false)] :=
  ⟨⟨0, false, .bclr 0, rfl, rfl, rfl⟩, by decide⟩

theorem test_witness_BitTransfers : cpuRegAt State.reset.cfg (BitVec.setWidth 6 (31 : BitVec 5)) = none ∧
    State.reset.cfg.device = .reference ∧ IoLoc.io 0 ≠ .io (BitVec.setWidth 6 (31 : BitVec 5)) ∧
    cpuRegAt externalDevice.cfg (BitVec.setWidth 6 (31 : BitVec 5)) = none ∧ externalDevice.cfg.device = .external ∧
    cpuRegAt { State.reset.cfg with ioSreg := 0x1F } (BitVec.setWidth 6 (31 : BitVec 5)) = some .sreg := by decide

end Sys2Proof.Tests
end

namespace Sys2Proof.Machine

/-! SUPPORT. The statements of 10_state.md: the invariant of the machine, the reset values, the flag table. -/

open Sys2Proof

/-! ### The invariant under single changes of the state -/

/-- The part of the invariant that accesses speak of. -/
theorem Inv.dataInv {s : State} (h : Inv s) : DataInv s := ⟨h.sram, h.bytes, h.mapped, h.absent⟩

/-- Whatever accesses did, a PC below 2^PC_BITS is all that the invariant still needs. -/
theorem Inv.of_keeps {s t : State} (h : Inv s) (k : Keeps s t) (hpc : t.pc.toNat < 2 ^ pcBits t.cfg.pcWidth) :
    Inv t := by
  obtain ⟨control, data⟩ := k
  obtain ⟨sram, bytes, mapped, absent⟩ := data h.dataInv
  refine ⟨?prog, sram, bytes, ?page, ?flash, mapped, hpc, ?flashEnd, absent, ?noFault⟩
  case prog => rw [control.prog]; exact h.prog
  case page => rw [control.pageBuffer]; exact h.page
  case flash => rw [progInRange, control.prog, control.cfg]; exact h.flash
  case flashEnd => rw [control.cfg]; exact h.flashEnd
  case noFault => rw [control.run]; exact h.noFault

/-- The program and device memories, the run state and the inhibit replaced by others that meet the invariant. -/
theorem Inv.update {s : State} (h : Inv s) {prog : Memory} {dev : Device} {run : RunState} (irqInhibit : Bool)
    (hprog : Memory.wf prog = true) (hflash : ∀ c ∈ prog, c.1 / 2 ≤ s.cfg.flashEnd)
    (hbytes : Memory.wf dev.bytes = true) (hpage : Memory.wf dev.pageBuffer = true) (hrun : ∀ f, run ≠ .faulted f) :
    Inv { s with prog := prog, dev := dev, run := run, irqInhibit := irqInhibit } := by
  refine ⟨hprog, h.sram, hbytes, hpage, ?flash, h.mapped, h.pc, h.flashEnd, fun r hr => ?absent, hrun⟩
  case flash => exact List.all_eq_true.2 fun c hc => decide_eq_true (hflash c hc)
  case absent =>
    have := h.absent r hr
    cases r <;> exact this

/-- Program memory lists words within FLASHEND only. -/
theorem Inv.prog_le_flashEnd {s : State} (h : Inv s) : ∀ c ∈ s.prog, c.1 / 2 ≤ s.cfg.flashEnd := fun c hc =>
  of_decide_eq_true (List.all_eq_true.1 h.flash c hc)

theorem Inv.setDev {s : State} (h : Inv s) {dev : Device} (hbytes : Memory.wf dev.bytes = true)
    (hpage : Memory.wf dev.pageBuffer = true) : Inv { s with dev := dev } :=
  h.update s.irqInhibit h.prog h.prog_le_flashEnd hbytes hpage h.noFault

theorem Inv.setRun {s : State} (h : Inv s) {run : RunState} (hrun : ∀ f, run ≠ .faulted f) :
    Inv { s with run := run } :=
  h.update s.irqInhibit h.prog h.prog_le_flashEnd h.bytes h.page hrun

theorem Inv.setIrqInhibit {s : State} (h : Inv s) (b : Bool) : Inv { s with irqInhibit := b } :=
  h.update b h.prog h.prog_le_flashEnd h.bytes h.page h.noFault

theorem Inv.inhibitIf {s : State} (h : Inv s) (cond : Bool) : Inv (s.inhibitIf cond) := by
  cases cond
  · exact h
  · exact h.setIrqInhibit true

/-- A reduced PC is below 2^PC_BITS. -/
theorem wrapPc_lt (c : Config) (v : ProgAddr) : (wrapPc c v).toNat < 2 ^ pcBits c.pcWidth := by
  rw [wrapPc_toNat]
  exact Nat.mod_lt _ (Nat.two_pow_pos _)

theorem Inv.setPc {s : State} (h : Inv s) (v : ProgAddr) : Inv (s.setPc v) :=
  h.of_keeps (.setPc s v) (wrapPc_lt s.cfg v)

theorem Inv.setSreg {s : State} (h : Inv s) (v : Byte) : Inv (s.setSreg v) := h.of_keeps (.setSreg s v) h.pc

theorem Inv.advance {s : State} (h : Inv s) (n : ProgAddr) : Inv (s.advance n) := h.setPc _

/-! ### The invariant and SPM -/

theorem Inv.spmOp {s : State} (h : Inv s) (form : SpmForm) : Inv (spmOp form s) := by
  obtain ⟨hprog, hbytes, hpage⟩ := spmOp_wf form s h.prog h.bytes h.page
  refine h.update s.irqInhibit hprog (fun c hc => ?_) hbytes hpage h.noFault
  rcases spmOp_prog_mem hc with hc | hc
  · exact h.prog_le_flashEnd c hc
  · exact hc

/-! ### The invariant and the check at an instruction boundary -/

/-- What the outside world does leaves the page buffer alone. -/
theorem Device.tick_pageBuffer (d : Device) : d.tick.pageBuffer = d.pageBuffer := by
  have fold : ∀ (es : List DeviceEvent) (d : Device), (es.foldl Device.apply d).pageBuffer = d.pageBuffer := by
    intro es
    induction es with
    | nil => exact fun _ => rfl
    | cons e es ih => exact fun d => (ih _).trans (by cases e <;> rfl)
  unfold Device.tick
  split
  · rfl
  · exact fold _ _

theorem Inv.devTick {s : State} (h : Inv s) : Inv (devTick s) := by
  unfold Machine.devTick
  split
  · exact h.setDev (Device.tick_bytes_wf _ h.bytes) (by rw [Device.tick_pageBuffer]; exact h.page)
  · exact h.setDev h.bytes h.page

theorem Inv.devAck {s : State} (h : Inv s) (source : Nat) : Inv (devAck source s) := by
  unfold Machine.devAck
  split
  · exact h.setDev h.bytes h.page
  · exact h.setDev h.bytes h.page

theorem Inv.endInhibit {s : State} (h : Inv s) (wasSei : Bool) : Inv (endInhibit wasSei s) := by
  cases wasSei
  · exact h.setIrqInhibit false
  · exact h

/-- A reset empties SRAM and sets every CPU register to zero but SP, which it reduces. -/
theorem Inv.applyReset {s : State} (h : Inv s) : Inv (applyReset s) := by
  obtain ⟨hprog, hsram, hbytes, hpage⟩ := applyReset_memories_wf s h.prog
  refine ⟨hprog, hsram, hbytes, hpage, h.flash, ?mapped, wrapPc_lt s.cfg _, h.flashEnd, fun r hr => ?absent,
    fun f hf => by cases hf⟩
  case mapped => exact fun c hc => absurd hc List.not_mem_nil
  case absent =>
    cases r with
    | spl => cases hr
    | sph => exact wrapSp_high s.cfg _ hr
    | sreg | rampD | rampX | rampY | rampZ | eind => rfl

/-- Interrupt entry: a push, the acknowledgement, the new PC and SREG, the core running. -/
theorem Inv.interruptEntry {s t : State} {r : Request} (h : Inv s) (he : interruptEntry r s = .ok () t) : Inv t := by
  obtain ⟨u, hpush, rfl⟩ := interruptEntry_ok he
  obtain ⟨keeps, hpc⟩ := Keeps.pushPc hpush
  have hu : Inv u := h.of_keeps keeps (by rw [hpc, keeps.control.cfg]; exact h.pc)
  have ha : (Machine.devAck r.source u).cfg = u.cfg := by rw [devAck_eq]
  have hm := (hu.devAck r.source).of_keeps (.of_registers _ (Machine.devAck r.source u).regs (putBit u.sreg flagI false)
    (wrapPc u.cfg r.vector)) (by rw [ha]; exact wrapPc_lt u.cfg r.vector)
  exact hm.setRun fun f hf => by cases hf

/-- The check at an instruction boundary keeps the invariant, whichever of its three ends it takes. -/
theorem Inv.boundary {s t : State} {wasSei : Bool} (h : Inv s) (hb : boundary wasSei s = .ok () t) : Inv t := by
  have hu := h.devTick.endInhibit wasSei
  rcases boundary_ok hb with ⟨-, rfl⟩ | rfl | ⟨r, -, he⟩
  · exact h.devTick.applyReset
  · exact hu
  · exact hu.interruptEntry he

/-! ### The decoder and the second word -/

/-- Whether a device has an instruction of the load group does not depend on the second word. -/
theorem decodeLoad_admits (c : Config) (n a b : Nat) :
    (decodeLoad n a).map (admits c) = (decodeLoad n b).map (admits c) := by
  unfold decodeLoad; split <;> rfl

theorem decodeStore_admits (c : Config) (n a b : Nat) :
    (decodeStore n a).map (admits c) = (decodeStore n b).map (admits c) := by
  unfold decodeStore; split <;> rfl

theorem admits_jmp (c : Config) (k l : BitVec 22) : admits c (.jmp k) = admits c (.jmp l) := rfl

theorem admits_call (c : Config) (k l : BitVec 22) : admits c (.call k) = admits c (.call l) := rfl

theorem decodeOne_admits (c : Config) (n a b : Nat) :
    (decodeOne n a).map (admits c) = (decodeOne n b).map (admits c) := by
  unfold decodeOne
  split
  case h_12 | h_13 => exact congrArg some (admits_jmp c _ _)
  case h_14 | h_15 => exact congrArg some (admits_call c _ _)
  all_goals rfl

theorem decode9_admits (c : Config) (n a b : Nat) :
    (decode9 n a).map (admits c) = (decode9 n b).map (admits c) := by
  unfold decode9
  split
  · exact decodeLoad_admits c n a b
  · exact decodeLoad_admits c n a b
  · exact decodeStore_admits c n a b
  · exact decodeStore_admits c n a b
  · exact decodeOne_admits c n a b
  · exact decodeOne_admits c n a b
  all_goals rfl

/-- The second word is an address and decides nothing about availability (60_exceptions.md R433). -/
theorem decode_admits (core : Core) (c : Config) (w a b : Word) :
    (decode core w a).map (admits c) = (decode core w b).map (admits c) := by
  unfold decode decodeNat
  split
  case h_10 => exact decode9_admits c w.toNat a.toNat b.toNat
  all_goals rfl

/-- What the fetch answers is an instruction the device has. -/
theorem fetch_admits {s : State} {w : Word} {i : Instr} (h : fetch s = .instr w i) : admits s.cfg i = true := by
  unfold fetch at h
  split at h
  · cases h
  · next w' _ =>
    split at h
    · cases h
    · next j hj =>
      split at h
      · next ha =>
        split at h
        · split at h
          · cases h
          · next w2 _ =>
            split at h
            · cases h
            · next k hk =>
              cases h
              have e := decode_admits s.cfg.core s.cfg w w2 0
              rw [hk, hj] at e
              exact (Option.some.inj e).trans ha
        · cases h; exact ha
      · cases h

/-- A device that has ELPM Rd,Z+ has RAMPZ (R323). -/
theorem rampZ_exists_of_admits {c : Config} {d : RegIx} (h : admits c (.elpmZInc d) = true) :
    cpuRegExists c .rampZ = true := by
  have hrow : (!c.absent.contains .elpmZInc && c.progGt64k) = true := by
    rw [← Bool.or_false (_ && _)]
    exact (Bool.and_eq_true_iff.1 h).1
  have hbig : c.progGt64k = true := (Bool.and_eq_true_iff.1 hrow).2
  simp [cpuRegExists, hbig]

/-! ### What an instruction can do -/

/-- The end of an instruction without control effect: accesses that keep the control state, and a reduced PC. -/
structure Ends (s t : State) : Prop where
  keeps : Keeps s t
  pc : ∃ v, t.pc = wrapPc t.cfg v

theorem Ends.inv {s t : State} (e : Ends s t) (h : Inv s) : Inv t := by
  obtain ⟨v, hv⟩ := e.pc
  exact h.of_keeps e.keeps (by rw [hv]; exact wrapPc_lt _ v)

/-- Accesses, then a new PC. -/
theorem Keeps.ends {s u : State} (k : Keeps s u) (v : ProgAddr) : Ends s (u.setPc v) :=
  ⟨k.trans (.setPc u v), v, rfl⟩

/-- A change of general registers and SREG, and a new PC. -/
theorem Ends.of_registers (s : State) (regs : Vector Byte 32) (sreg : Byte) (v : ProgAddr) :
    Ends s { s with regs := regs, sreg := sreg, pc := wrapPc s.cfg v } :=
  ⟨.of_registers s regs sreg _, v, rfl⟩

theorem Ends.writeResult (s : State) (d : RegIx) (res sreg : Byte) : Ends s (s.writeResult d res sreg) :=
  ((Keeps.setSreg s sreg).trans (.setReg _ d res)).ends _

theorem Ends.writeProduct (s : State) (res : Word) (sreg : Byte) : Ends s (s.writeProduct res sreg) :=
  ((Keeps.setSreg s sreg).trans (.setPair _ 0 res)).ends _

theorem Ends.branchIf (s : State) (cond : Bool) (k : BitVec 7) : Ends s (s.branchIf cond k) := by
  cases cond
  · exact (Keeps.refl s).ends _
  · exact (Keeps.refl s).ends _

theorem Ends.loadAt {d : RegIx} {a : DataAddr} {n : ProgAddr} {s t : State} (h : loadAt d a n s = .ok () t) :
    Ends s t := by
  obtain ⟨v, u, hr, rfl⟩ := loadAt_ok h
  exact ((Keeps.memRead hr).trans (.setReg u d v)).ends _

theorem Ends.storeAt {a : DataAddr} {v : Byte} {n : ProgAddr} {s t : State} (h : storeAt a v n s = .ok () t) :
    Ends s t := by
  obtain ⟨u, hw, rfl⟩ := storeAt_ok h
  exact (Keeps.memWrite hw).1.ends _

/-- Accesses before an ending. -/
theorem Ends.after {s u t : State} (e : Ends u t) (k : Keeps s u) : Ends s t := ⟨k.trans e.keeps, e.pc⟩

theorem Ends.loadPostInc {i : Instr} {p : Pointer} {d : RegIx} {s t : State} (h : loadPostInc i p d s = .ok () t) :
    Ends s t := by
  obtain ⟨-, v, u, hr, rfl⟩ := loadPostInc_ok h
  exact (((Keeps.memRead hr).trans (.setReg u d v)).trans (Keeps.ptrSet p _ _).1).ends _

theorem Ends.loadPreDec {i : Instr} {p : Pointer} {d : RegIx} {s t : State} (h : loadPreDec i p d s = .ok () t) :
    Ends s t :=
  (Ends.loadAt (loadPreDec_ok h).2).after (Keeps.ptrSet p _ s).1

theorem Ends.storePostInc {i : Instr} {p : Pointer} {r : RegIx} {s t : State} (h : storePostInc i p r s = .ok () t) :
    Ends s t := by
  obtain ⟨-, u, hw, rfl⟩ := storePostInc_ok h
  exact ((Keeps.memWrite hw).1.trans (Keeps.ptrSet p _ u).1).ends _

theorem Ends.storePreDec {i : Instr} {p : Pointer} {r : RegIx} {s t : State} (h : storePreDec i p r s = .ok () t) :
    Ends s t :=
  (Ends.storeAt (storePreDec_ok h).2).after (Keeps.ptrSet p _ s).1

theorem Ends.exchangeAt {f : Byte → Byte → Byte} {d : RegIx} {s t : State} (h : exchangeAt f d s = .ok () t) :
    Ends s t := by
  obtain ⟨old, u, w, hr, hw, rfl⟩ := exchangeAt_ok h
  exact (((Keeps.memRead hr).trans (Keeps.memWrite hw).1).trans (.setReg w d old)).ends _

theorem Ends.progLoadAt {d : RegIx} {a : BitVec 24} {s t : State} (h : progLoadAt d a s = .ok () t) : Ends s t := by
  rw [progLoadAt_ok h]
  exact (Keeps.setReg s d _).ends _

theorem Ends.skipIf {cond : Bool} {s t : State} (h : skipIf cond s = .ok () t) : Ends s t := by
  rcases skipIf_ok h with rfl | rfl | rfl
  all_goals exact (Keeps.refl s).ends _

theorem Ends.callTo {ra target : ProgAddr} {s t : State} (h : callTo ra target s = .ok () t) : Ends s t := by
  obtain ⟨u, hp, rfl⟩ := callTo_ok h
  exact (Keeps.pushPc hp).1.ends _

/-- LPM Rd,Z+ that succeeds. -/
theorem execLpmZInc_next {d : RegIx} {s t : State} (h : execLpmZInc d s = .next t) :
    t = ((s.setReg d (s.progByte (lpmAddr s).toNat)).setPair 30 (s.pair 30 + 1)).advance 1 := by
  unfold execLpmZInc at h
  split at h
  · cases h
  · obtain ⟨v, u, hl, hk⟩ := Res.bind_ok (Res.outcome_next h)
    obtain ⟨rfl, rfl, -⟩ := progLoad_ok hl
    cases hk
    rfl

/-- ELPM Rd,Z+ that succeeds. -/
theorem execElpmZInc_next {d : RegIx} {s t : State} (h : execElpmZInc d s = .next t) :
    t = (setElpmAddr (elpmAddr s + 1) (s.setReg d (s.progByte (elpmAddr s).toNat))).advance 1 := by
  unfold execElpmZInc at h
  split at h
  · cases h
  · obtain ⟨v, u, hl, hk⟩ := Res.bind_ok (Res.outcome_next h)
    obtain ⟨rfl, rfl, -⟩ := progLoad_ok hl
    cases hk
    rfl

/-- RET that succeeds. -/
theorem execRet_next {s t : State} (h : execRet s = .next t) : ∃ ra u, popPc s = .ok ra u ∧ t = u.setPc ra := by
  obtain ⟨ra, u, hp, hk⟩ := Res.bind_ok (Res.outcome_next h)
  cases hk
  exact ⟨ra, u, hp, rfl⟩

/-- POP that succeeds. -/
theorem execPop_next {d : RegIx} {s t : State} (h : execPop d s = .next t) :
    ∃ v u, pop s = .ok v u ∧ t = (u.setReg d v).advance 1 := by
  obtain ⟨v, u, hp, hk⟩ := Res.bind_ok (Res.outcome_next h)
  cases hk
  exact ⟨v, u, hp, rfl⟩

/-- PUSH that succeeds. -/
theorem execPush_next {r : RegIx} {s t : State} (h : execPush r s = .next t) :
    ∃ u, push (s.reg r) s = .ok () u ∧ t = u.advance 1 := by
  obtain ⟨_, u, hp, hk⟩ := Res.bind_ok (Res.outcome_next h)
  cases hk
  exact ⟨u, hp, rfl⟩

/-- Writing RAMPZ:Z on a device that has RAMPZ. -/
theorem Keeps.setElpmAddr (s : State) (v : BitVec 24) (h : cpuRegExists s.cfg .rampZ = true) :
    Keeps s (setElpmAddr v s) :=
  (Keeps.setCpuReg s .rampZ (v.extractLsb' 16 8) h).trans (.setPair _ 30 _)

/-- The instructions with an effect beside accesses and PC: SPM, the run state, the interrupt inhibit, and RAMPZ written
as part of a pointer. -/
def hasControlEffect : Instr → Bool
  | .spm | .spmZInc | .sleep | .brk | .sei | .bset _ | .elpmZInc _ => true
  | _ => false

/-- What every other instruction can do. -/
theorem exec_ends {i : Instr} {s t : State} (h : exec i s = .next t) (hi : hasControlEffect i = false) : Ends s t := by
  cases i with
  | spm | spmZInc | sleep | brk | sei | bset | elpmZInc => cases hi
  | add | adc | sub | subi | sbc | sbci | and | andi | or | ori | eor | com | neg | sbr | cbr | inc | dec | tst | clr
  | lsl | lsr | rol | ror | asr =>
    cases h
    exact .writeResult s _ _ _
  | mul | muls | mulsu | fmul | fmuls | fmulsu =>
    cases h
    exact .writeProduct s _ _
  | adiw d K | sbiw d K =>
    cases h
    exact ((Keeps.setSreg s _).trans (.setPair _ d _)).ends _
  | cp | cpc | cpi | bclr | bst | sec | clc | sen | cln | sez | clz | cli | ses | cls | sev | clv | set | clt | seh
  | clh =>
    cases h
    exact (Keeps.setSreg s _).ends _
  | ser | mov | ldi | swap | bld =>
    cases h
    exact (Keeps.setReg s _ _).ends _
  | movw d r =>
    cases h
    exact (Keeps.setPair s d _).ends _
  | des K =>
    cases h
    exact ((Keeps.setBlock s 0 _).trans (.setBlock _ 8 _)).ends _
  | rjmp | ijmp | eijmp | jmp | nop =>
    cases h
    exact (Keeps.refl s).ends _
  | brbs | brbc | breq | brne | brcs | brcc | brsh | brlo | brmi | brpl | brge | brlt | brhs | brhc | brts | brtc | brvs
  | brvc | brie | brid =>
    cases h
    exact .branchIf s _ _
  | rcall | icall | eicall | call => exact .callTo (Res.outcome_next h)
  | ret =>
    obtain ⟨ra, u, hp, rfl⟩ := execRet_next h
    exact (Keeps.popPc hp).ends ra
  | reti =>
    obtain ⟨ra, u, hp, rfl⟩ := interruptReturn_ok (Res.outcome_next h)
    exact (Ends.of_registers u _ _ ra).after (.popPc hp)
  | cpse | sbrc | sbrs => exact .skipIf (Res.outcome_next h)
  | sbic A b | sbis A b => exact (Ends.skipIf (Res.outcome_next h)).after (.ioRead (lowIo A) s)
  | lds | lds16 | ldX | ldY | lddY | ldZ | lddZ => exact .loadAt (Res.outcome_next h)
  | ldXInc | ldYInc | ldZInc => exact .loadPostInc (Res.outcome_next h)
  | ldXDec | ldYDec | ldZDec => exact .loadPreDec (Res.outcome_next h)
  | sts | sts16 | stX | stY | stdY | stZ | stdZ => exact .storeAt (Res.outcome_next h)
  | stXInc | stYInc | stZInc => exact .storePostInc (Res.outcome_next h)
  | stXDec | stYDec | stZDec => exact .storePreDec (Res.outcome_next h)
  | lpmR0 | lpm | elpmR0 | elpm => exact .progLoadAt (Res.outcome_next h)
  | lpmZInc d =>
    rw [execLpmZInc_next h]
    exact ((Keeps.setReg s d _).trans (.setPair _ 30 _)).ends _
  | inp d A =>
    cases h
    exact ((Keeps.ioRead A s).trans (.setReg _ d _)).ends _
  | out A r =>
    cases h
    exact (Keeps.ioWrite A _ s).ends _
  | push r =>
    obtain ⟨u, hp, rfl⟩ := execPush_next h
    exact (Keeps.push hp).1.ends _
  | pop d =>
    obtain ⟨v, u, hp, rfl⟩ := execPop_next h
    exact ((Keeps.pop hp).trans (.setReg u d v)).ends _
  | xch | las | lac | lat => exact .exchangeAt (Res.outcome_next h)
  | sbi A b =>
    cases h
    exact (Keeps.setIoBit A b s).ends _
  | cbi A b =>
    cases h
    exact (Keeps.clearIoBit A b s).ends _
  | wdr =>
    cases h
    exact (Keeps.devWdr s).ends _

/-- An instruction the device has keeps the invariant. -/
theorem Inv.exec {i : Instr} {s t : State} (h : Inv s) (ha : admits s.cfg i = true) (he : exec i s = .next t) :
    Inv t := by
  cases hi : hasControlEffect i with
  | false => exact (exec_ends he hi).inv h
  | true =>
    cases i with
    | spm =>
      cases he
      exact (h.spmOp .spm).advance 1
    | spmZInc =>
      cases he
      exact ((Keeps.setPair (Machine.spmOp .spmZInc s) 30 _).ends _).inv (h.spmOp .spmZInc)
    | sleep =>
      cases he
      split
      · exact (h.advance 1).setRun fun f hf => by cases hf
      · exact h.advance 1
    | brk =>
      cases he
      split
      · exact (h.advance 1).setRun fun f hf => by cases hf
      · exact h.advance 1
    | sei =>
      cases he
      exact ((h.setSreg _).inhibitIf true).advance 1
    | bset n =>
      cases he
      exact ((h.setSreg _).inhibitIf _).advance 1
    | elpmZInc d =>
      rw [execElpmZInc_next he]
      exact (((Keeps.setReg s d _).trans (.setElpmAddr _ _ (rampZ_exists_of_admits ha))).ends _).inv h
    | _ => cases hi

/-- Settles O9: a step is the boundary check, after the meaning of an instruction the device has if the core is
running. -/
theorem stepKeepsInvariant : Obligations.StepKeepsInvariant := by
  intro s t h hs
  rcases step_next hs with ⟨-, hb⟩ | ⟨-, w, i, u, hf, he, hb⟩
  · exact h.boundary hb
  · exact (h.exec (fetch_admits hf) he).boundary hb

/-! ### Reset -/

/-- Settles O10: the memories are empty, PC and the CPU registers are those of the reference configuration. -/
theorem resetHasInvariant : Obligations.ResetHasInvariant := by
  obtain ⟨hprog, hsram, hbytes, hpage⟩ := reset_memories_wf
  refine ⟨hprog, hsram, hbytes, hpage, by decide, ?mapped, by decide, by decide, ?absent, fun f hf => by cases hf⟩
  case mapped => exact fun c hc => absurd hc List.not_mem_nil
  case absent =>
    intro r
    cases r <;> decide

/-- Settles O11: the values after reset are read off `State.reset`; a reset during the run reduces PC and SP. -/
theorem resetValues : Obligations.ResetValues := by
  refine ⟨by decide, fun s => ?_⟩
  obtain ⟨hprog, hsram, hbytes, -⟩ := applyReset_memories s
  have hpc : (applyReset s).pc.toNat = s.cfg.resetPc.toNat % 2 ^ pcBits s.cfg.pcWidth := wrapPc_toNat s.cfg _
  exact ⟨hpc, rfl, rfl, rfl, rfl, rfl, rfl, rfl, rfl, rfl, hsram, hbytes, hprog, rfl⟩

/-! ### Flags a computation of SREG leaves alone -/

theorem FlagsKept.of_eq {fs : List BitIx} {old new : Byte} (h : new = old) : FlagsKept fs old new := fun _ _ => by
  rw [h]

/-- One computation after the other: the flags of both. -/
theorem FlagsKept.then {fs gs hs : List BitIx} {a b c : Byte} (h : FlagsKept fs a b) (k : FlagsKept gs b c)
    (sub : fs ++ gs ⊆ hs) : FlagsKept hs a c := fun f hf => by
  have hfs : f ∉ fs := fun m => hf (sub (List.mem_append_left gs m))
  have hgs : f ∉ gs := fun m => hf (sub (List.mem_append_right fs m))
  rw [k f hgs, h f hfs]

theorem putBit_kept (sreg : Byte) (n : BitIx) (b : Bool) : FlagsKept [n] sreg (putBit sreg n b) := fun f hf => by
  rw [getBit_putBit, if_neg (by simpa using hf)]

theorem putSVNZ_kept (sreg : Byte) (v n z : Bool) : FlagsKept [flagS, flagV, flagN, flagZ] sreg (putSVNZ sreg v n z) :=
  fun f hf => by
    simp only [List.mem_cons, List.not_mem_nil, or_false, not_or] at hf
    simp only [putSVNZ_bits, hf, if_false]

theorem putHC_kept (sreg : Byte) (h c : Bool) : FlagsKept [flagH, flagC] sreg (putHC sreg h c) :=
  (putBit_kept sreg flagH h).then (putBit_kept _ flagC c) (by decide)

theorem addFlags_kept (sreg a b : Byte) (cin : Bool) :
    FlagsKept [flagH, flagS, flagV, flagN, flagZ, flagC] sreg (addFlags sreg a b cin) :=
  (putSVNZ_kept sreg _ _ _).then (putHC_kept _ _ _) (by decide)

theorem subFlags_kept (sreg a b : Byte) (cin keepZ : Bool) :
    FlagsKept [flagH, flagS, flagV, flagN, flagZ, flagC] sreg (subFlags sreg a b cin keepZ) :=
  (putSVNZ_kept sreg _ _ _).then (putHC_kept _ _ _) (by decide)

theorem logicFlags_kept (sreg res : Byte) : FlagsKept [flagS, flagV, flagN, flagZ] sreg (logicFlags sreg res) :=
  putSVNZ_kept sreg _ _ _

theorem incFlags_kept (sreg res : Byte) : FlagsKept [flagS, flagV, flagN, flagZ] sreg (incFlags sreg res) :=
  putSVNZ_kept sreg _ _ _

theorem decFlags_kept (sreg res : Byte) : FlagsKept [flagS, flagV, flagN, flagZ] sreg (decFlags sreg res) :=
  putSVNZ_kept sreg _ _ _

theorem comFlags_kept (sreg res : Byte) : FlagsKept [flagS, flagV, flagN, flagZ, flagC] sreg (comFlags sreg res) :=
  (logicFlags_kept sreg res).then (putBit_kept _ flagC true) (by decide)

theorem adiwFlags_kept (sreg : Byte) (old res : Word) :
    FlagsKept [flagS, flagV, flagN, flagZ, flagC] sreg (adiwFlags sreg old res) :=
  (putSVNZ_kept sreg _ _ _).then (putBit_kept _ flagC _) (by decide)

theorem sbiwFlags_kept (sreg : Byte) (old res : Word) :
    FlagsKept [flagS, flagV, flagN, flagZ, flagC] sreg (sbiwFlags sreg old res) :=
  (putSVNZ_kept sreg _ _ _).then (putBit_kept _ flagC _) (by decide)

theorem mulFlags_kept (sreg : Byte) (c : Bool) (res : Word) : FlagsKept [flagZ, flagC] sreg (mulFlags sreg c res) :=
  (putBit_kept sreg flagC c).then (putBit_kept _ flagZ _) (by decide)

theorem shiftFlags_kept (sreg res : Byte) (c : Bool) :
    FlagsKept [flagS, flagV, flagN, flagZ, flagC] sreg (shiftFlags sreg res c) :=
  (putSVNZ_kept sreg _ _ _).then (putBit_kept _ flagC c) (by decide)

theorem shiftLeftFlags_kept (sreg old res : Byte) :
    FlagsKept [flagH, flagS, flagV, flagN, flagZ, flagC] sreg (shiftLeftFlags sreg old res) :=
  (shiftFlags_kept sreg res old.msb).then (putBit_kept _ flagH _) (by decide)

/-! ### Operations that leave SREG alone -/

theorem State.branchIf_sreg (s : State) (cond : Bool) (k : BitVec 7) : (s.branchIf cond k).sreg = s.sreg := by
  cases cond <;> rfl

theorem State.inhibitIf_sreg (s : State) (cond : Bool) : (s.inhibitIf cond).sreg = s.sreg := by
  cases cond <;> rfl

theorem State.setBlock_sreg (s : State) (i : RegIx) (v : BitVec 64) : (s.setBlock i v).sreg = s.sreg := rfl

theorem ioRead_sreg (A : BitVec 6) (s : State) : (ioRead A s).2.sreg = s.sreg := by
  rw [ioRead_snd]
  rfl

theorem devWdr_sreg (s : State) : (devWdr s).sreg = s.sreg := by
  unfold devWdr
  split <;> rfl

theorem memRead_sreg {a : Nat} {s t : State} {v : Byte} (h : memRead a s = .ok v t) : t.sreg = s.sreg := by
  rw [memRead_ok h]
  rfl

theorem pop_sreg {s t : State} {v : Byte} (h : pop s = .ok v t) : t.sreg = s.sreg := by
  rw [pop_ok h]

theorem popPc_sreg {s t : State} {ra : ProgAddr} (h : popPc s = .ok ra t) : t.sreg = s.sreg := by
  rw [popPc_ok h]

theorem loadAt_sreg {d : RegIx} {a : DataAddr} {n : ProgAddr} {s t : State} (h : loadAt d a n s = .ok () t) :
    t.sreg = s.sreg := by
  obtain ⟨v, u, hr, rfl⟩ := loadAt_ok h
  exact (memRead_sreg hr :)

theorem loadPostInc_sreg {i : Instr} {p : Pointer} {d : RegIx} {s t : State} (h : loadPostInc i p d s = .ok () t) :
    t.sreg = s.sreg := by
  obtain ⟨-, v, u, hr, rfl⟩ := loadPostInc_ok h
  obtain ⟨-, -, hp⟩ := Keeps.ptrSet p (ptrNext p s) (u.setReg d v)
  exact hp.trans (memRead_sreg hr :)

theorem loadPreDec_sreg {i : Instr} {p : Pointer} {d : RegIx} {s t : State} (h : loadPreDec i p d s = .ok () t) :
    t.sreg = s.sreg := by
  obtain ⟨-, hl⟩ := loadPreDec_ok h
  obtain ⟨-, -, hp⟩ := Keeps.ptrSet p (ptrPrev p s) s
  exact (loadAt_sreg hl).trans hp

theorem progLoadAt_sreg {d : RegIx} {a : BitVec 24} {s t : State} (h : progLoadAt d a s = .ok () t) :
    t.sreg = s.sreg := by
  rw [progLoadAt_ok h]
  rfl

theorem skipIf_sreg {cond : Bool} {s t : State} (h : skipIf cond s = .ok () t) : t.sreg = s.sreg := by
  rcases skipIf_ok h with rfl | rfl | rfl <;> rfl

/-! ### The flag table -/

/-- An instruction that is in no row of R27's table, and writes no data or I/O location, leaves SREG alone. -/
theorem exec_sreg {i : Instr} {s t : State} (h : exec i s = .next t) (hf : flagsWritten i = [])
    (hw : writesData i = false) : t.sreg = s.sreg := by
  cases i with
  | add | adc | sub | subi | sbc | sbci | cp | cpc | cpi | neg | lsl | rol | adiw | sbiw | com | lsr | ror | asr | and
  | andi | or | ori | eor | sbr | cbr | tst | clr | inc | dec | mul | muls | mulsu | fmul | fmuls | fmulsu | bst | bset
  | bclr | reti | sec | clc | sen | cln | sez | clz | sei | cli | ses | cls | sev | clv | set | clt | seh | clh =>
    cases hf
  | ser | rjmp | ijmp | eijmp | jmp | mov | movw | ldi | swap | bld | nop | spm | spmZInc =>
    cases h
    rfl
  | des K =>
    cases h
    rw [State.advance_sreg, State.setBlock_sreg, State.setBlock_sreg]
  | brbs | brbc | breq | brne | brcs | brcc | brsh | brlo | brmi | brpl | brge | brlt | brhs | brhc | brts | brtc | brvs
  | brvc | brie | brid =>
    cases h
    exact State.branchIf_sreg s _ _
  | ret =>
    obtain ⟨ra, u, hp, rfl⟩ := execRet_next h
    exact (popPc_sreg hp :)
  | cpse | sbrc | sbrs => exact skipIf_sreg (Res.outcome_next h)
  | sbic A b | sbis A b => exact (skipIf_sreg (Res.outcome_next h)).trans (ioRead_sreg (lowIo A) s)
  | lds | lds16 | ldX | ldY | lddY | ldZ | lddZ => exact loadAt_sreg (Res.outcome_next h)
  | ldXInc | ldYInc | ldZInc => exact loadPostInc_sreg (Res.outcome_next h)
  | ldXDec | ldYDec | ldZDec => exact loadPreDec_sreg (Res.outcome_next h)
  | lpmR0 | lpm | elpmR0 | elpm => exact progLoadAt_sreg (Res.outcome_next h)
  | lpmZInc d =>
    rw [execLpmZInc_next h]
    rfl
  | elpmZInc d =>
    rw [execElpmZInc_next h]
    rfl
  | inp d A =>
    cases h
    exact ioRead_sreg A s
  | pop d =>
    obtain ⟨v, u, hp, rfl⟩ := execPop_next h
    exact (pop_sreg hp :)
  | wdr =>
    cases h
    exact devWdr_sreg s
  | brk | sleep =>
    cases h
    split <;> rfl
  | rcall | icall | eicall | call | sts | sts16 | stX | stXInc | stXDec | stY | stYInc | stYDec | stdY | stZ | stZInc
  | stZDec | stdZ | out | push | xch | las | lac | lat | sbi | cbi =>
    cases hw

/-- Settles O14, row by row of the first table of R27; every other instruction leaves SREG alone. -/
theorem flagFrame : Obligations.FlagFrame := by
  intro i s t h hw
  cases i with
  | add | adc =>
    cases h
    exact addFlags_kept _ _ _ _
  | sub | subi | sbc | sbci | cp | cpc | cpi | neg =>
    cases h
    exact subFlags_kept _ _ _ _ _
  | lsl | rol =>
    cases h
    exact shiftLeftFlags_kept _ _ _
  | adiw =>
    cases h
    exact adiwFlags_kept _ _ _
  | sbiw =>
    cases h
    exact sbiwFlags_kept _ _ _
  | com =>
    cases h
    exact comFlags_kept _ _
  | lsr | ror | asr =>
    cases h
    exact shiftFlags_kept _ _ _
  | and | andi | or | ori | eor | sbr | cbr | tst | clr =>
    cases h
    exact logicFlags_kept _ _
  | inc =>
    cases h
    exact incFlags_kept _ _
  | dec =>
    cases h
    exact decFlags_kept _ _
  | mul | muls | mulsu | fmul | fmuls | fmulsu =>
    cases h
    exact mulFlags_kept _ _ _
  | bst | bclr | sec | clc | sen | cln | sez | clz | cli | ses | cls | sev | clv | set | clt | seh | clh =>
    cases h
    exact putBit_kept _ _ _
  | bset n =>
    cases h
    rw [State.advance_sreg, State.inhibitIf_sreg]
    exact putBit_kept _ n true
  | sei =>
    cases h
    exact putBit_kept _ flagI true
  | reti =>
    obtain ⟨ra, u, hp, rfl⟩ := interruptReturn_ok (Res.outcome_next h)
    rw [← popPc_sreg hp]
    exact putBit_kept u.sreg flagI true
  | _ => exact .of_eq (exec_sreg h rfl hw)

end Sys2Proof.Machine

namespace Sys2Proof.Machine

/-! SUPPORT. The statements of 20_memory.md: program memory, data accesses, the I/O registers, the reference device, and
the return address on the stack. -/

open Sys2Proof

/-! ### Program memory as bytes (R62) -/

theorem wordOf_low (lo hi : Byte) : (wordOf lo hi).extractLsb' 0 8 = lo := BitVec.extractLsb'_append_eq_right

theorem wordOf_high (lo hi : Byte) : (wordOf lo hi).extractLsb' 8 8 = hi := BitVec.extractLsb'_append_eq_left

/-- A program byte is the low byte of its word at an even address, the high byte at an odd one. -/
theorem State.progByte_eq_half (s : State) (a : Nat) : s.progByte a =
    if a % 2 = 0 then (s.progWord (a / 2)).extractLsb' 0 8 else (s.progWord (a / 2)).extractLsb' 8 8 := by
  unfold State.progWord
  split
  · next even => rw [wordOf_low, show 2 * (a / 2) = a by omega]
  · next odd => rw [wordOf_high, show 2 * (a / 2) + 1 = a by omega]

theorem progLoad_within {a : Nat} {s : State} (h : a / 2 ≤ s.cfg.flashEnd) : progLoad a s = .ok (s.progByte a) s :=
  if_pos h

theorem progLoad_above {a : Nat} {s : State} (h : s.cfg.flashEnd < a / 2) :
    progLoad a s = .stop (.fetchOutOfRange (a / 2)) s :=
  if_neg (Nat.not_le.2 h)

/-- Settles O25: `ProgLoad` reads the byte, which is half of its word. -/
theorem programBytes : Obligations.ProgramBytes := by
  intro a s
  refine ⟨fun h => ?_, progLoad_above⟩
  rw [progLoad_within h, State.progByte_eq_half]

/-! ### Who changes program memory (R79) -/

theorem State.inhibitIf_prog (s : State) (cond : Bool) : (s.inhibitIf cond).prog = s.prog := by
  cases cond <;> rfl

/-- Every instruction but SPM and SPM Z+ leaves program memory alone. -/
theorem exec_prog {i : Instr} {s t : State} (h : exec i s = .next t) (hspm : i ≠ .spm) (hinc : i ≠ .spmZInc) :
    t.prog = s.prog := by
  cases hi : hasControlEffect i with
  | false => exact (exec_ends h hi).keeps.control.prog
  | true =>
    cases i with
    | spm => exact absurd rfl hspm
    | spmZInc => exact absurd rfl hinc
    | sleep | brk =>
      cases h
      split <;> rfl
    | sei =>
      cases h
      rfl
    | bset n =>
      cases h
      exact State.inhibitIf_prog _ _
    | elpmZInc d =>
      rw [execElpmZInc_next h]
      rfl
    | _ => cases hi

theorem devTick_prog (s : State) : (devTick s).prog = s.prog := by rw [devTick_eq]

theorem devAck_prog (source : Nat) (s : State) : (devAck source s).prog = s.prog := by rw [devAck_eq]

theorem endInhibit_prog (wasSei : Bool) (s : State) : (endInhibit wasSei s).prog = s.prog := by
  cases wasSei <;> rfl

theorem interruptEntry_prog {r : Request} {s t : State} (h : interruptEntry r s = .ok () t) : t.prog = s.prog := by
  obtain ⟨u, hpush, rfl⟩ := interruptEntry_ok h
  exact (devAck_prog r.source u).trans (Keeps.pushPc hpush).1.control.prog

/-- Neither a reset nor an interrupt entry changes program memory. -/
theorem boundary_prog {wasSei : Bool} {s t : State} (h : boundary wasSei s = .ok () t) : t.prog = s.prog := by
  have hu : (endInhibit wasSei (devTick s)).prog = s.prog := (endInhibit_prog wasSei _).trans (devTick_prog s)
  rcases boundary_ok h with ⟨-, rfl⟩ | rfl | ⟨r, -, he⟩
  · obtain ⟨hprog, -⟩ := applyReset_memories (devTick s)
    exact hprog.trans (devTick_prog s)
  · exact hu
  · exact (interruptEntry_prog he).trans hu

/-- A device without `SpmOp` has neither SPM instruction (R326). -/
theorem not_spm_of_admits {c : Config} {i : Instr} (ha : admits c i = true) (hc : c.spmOp = none) :
    i ≠ .spm ∧ i ≠ .spmZInc := by
  constructor <;> rintro rfl <;> simp [admits, available, optionalRows, featureOf, hc] at ha

/-- Settles O12: a step is an instruction the device has, if the core is running, and the boundary check. -/
theorem programMemoryOnlyBySpm : Obligations.ProgramMemoryOnlyBySpm := by
  refine ⟨fun i s t h hspm hinc => exec_prog h hspm hinc, fun s t hc h => ?_⟩
  rcases step_next h with ⟨-, hb⟩ | ⟨-, w, i, u, hf, he, hb⟩
  · exact boundary_prog hb
  · obtain ⟨hspm, hinc⟩ := not_spm_of_admits (fetch_admits hf) hc
    exact (boundary_prog hb).trans (exec_prog he hspm hinc)

/-! ### Data accesses (R66) -/

/-- A data write keeps SRAM canonical. -/
theorem memWrite_sram_wf {a : Nat} {v : Byte} {s t : State} (h : memWrite a v s = .ok () t)
    (hs : Memory.wf s.sram = true) : Memory.wf t.sram = true := by
  unfold memWrite at h
  split at h <;> cases h
  case h_1 => exact hs
  case h_2 => rw [ioWrite_eq]; exact hs
  case h_3 => rw [devWrite_eq]; exact hs
  case h_4 => exact Memory.wf_set _ _ _ hs

/-- Settles O20, from the laws of a read and of a write at an accessible and at any other address. -/
theorem dataAccesses : Obligations.DataAccesses := by
  intro a v s
  refine ⟨memRead_readable, memRead_unreadable, fun hw => ?_, memWrite_unwritable v⟩
  obtain ⟨u, hu, writes⟩ := memWrite_writable v hw
  exact ⟨u, hu, writes, memWrite_sram_wf hu⟩

/-! ### I/O registers (R69) -/

theorem ioRead_cpu {A : BitVec 6} {s : State} {r : CpuReg} (h : cpuRegAt s.cfg A = some r) :
    ioRead A s = (s.cpuReg r, s) := by
  simp only [ioRead, h]

theorem ioRead_device {A : BitVec 6} {s : State} (h : cpuRegAt s.cfg A = none) : ioRead A s = devRead (.io A) s := by
  simp only [ioRead, h]

theorem ioWrite_cpu {A : BitVec 6} (v : Byte) {s : State} {r : CpuReg} (h : cpuRegAt s.cfg A = some r) :
    ioWrite A v s = s.setCpuReg r v := by
  simp only [ioWrite, h]

theorem ioWrite_device {A : BitVec 6} (v : Byte) {s : State} (h : cpuRegAt s.cfg A = none) :
    ioWrite A v s = devWrite (.io A) v s := by
  simp only [ioWrite, h]

/-- Settles O21: a read follows the order in which the CPU registers are tried, and a write stores in the one found. -/
theorem ioRegisters : Obligations.IoRegisters := by
  refine ⟨fun A s => ?read, fun A v s r hr => ?write, fun A v s h => ioWrite_device v h⟩
  case read =>
    have at_eq := cpuRegAt_eq s.cfg A
    split_ifs at at_eq ⊢
    case neg => exact ioRead_device at_eq
    all_goals exact ioRead_cpu at_eq
  case write =>
    have exists_r := cpuRegAt_exists hr
    rw [ioWrite_cpu v hr]
    refine ⟨?_, fun q hq exists_q => ?_, ?_⟩
    · rw [State.setCpuReg_cpuReg s r r v exists_r exists_r, if_pos rfl]
    · rw [State.setCpuReg_cpuReg s r q v exists_r exists_q, if_neg hq]
    · rw [State.setCpuReg_eq]
      exact ⟨rfl, rfl, rfl, rfl, rfl, rfl, rfl⟩

/-! ### The reference device (R70) -/

section Reference

variable {s : State} (href : s.cfg.device = .reference)
include href

theorem devRead_reference (loc : IoLoc) : devRead loc s = (s.deviceByte loc, s) := by
  simp only [devRead, href]

theorem devWrite_reference (loc : IoLoc) (v : Byte) : devWrite loc v s = s.setDeviceByte loc v := by
  simp only [devWrite, href]

theorem devWdr_reference : devWdr s = s := by
  simp only [devWdr, href]

theorem devIrq_reference : devIrq s = s.dev.requests.head? := by
  simp only [devIrq, href]

theorem devResetRequested_reference : devResetRequested s = s.dev.resetRequested := by
  simp only [devResetRequested, href]

/-- With no outside input to come a tick changes nothing. -/
theorem devTick_reference_quiet (h : s.dev.inputs = []) : devTick s = s := by
  simp only [devTick, href, Device.tick, h]

/-- With nothing pending an acknowledgement changes nothing. -/
theorem devAck_reference_quiet (h : s.dev.requests = []) (source : Nat) : devAck source s = s := by
  simp only [devAck, href, h, List.eraseP_nil]
  rw [← h]

end Reference

/-- Settles O22: the byte store, its quiet clause, and the device after reset. -/
theorem referenceDevice : Obligations.ReferenceDevice := by
  refine ⟨fun loc v s href => ?store, fun s href hin hreq hreset => ?quiet, by decide⟩
  case store =>
    rw [devWrite_reference href]
    refine ⟨devRead_reference href loc, ?_, fun o ho => ?_, rfl, devWdr_reference href⟩
    · rw [State.setDeviceByte_deviceByte, if_pos rfl]
    · rw [State.setDeviceByte_deviceByte, if_neg ho]
  case quiet =>
    refine ⟨devTick_reference_quiet href hin, ?_, ?_, devAck_reference_quiet href hreq⟩
    · rw [devIrq_reference href, hreq]; rfl
    · rw [devResetRequested_reference href, hreset]

/-! ### The stack pointer after several pushes and pops -/

theorem spDown_zero (s : State) : spDown s 0 = s.sp := rfl

theorem spUp_zero (s : State) : spUp s 0 = s.sp := rfl

theorem spDown_succ (s : State) (k : Nat) : spDown s (k + 1) = wrapSp s.cfg (s.sp - BitVec.ofNat 16 (k + 1)) := rfl

theorem spUp_succ (s : State) (k : Nat) : spUp s (k + 1) = wrapSp s.cfg (s.sp + BitVec.ofNat 16 (k + 1)) := rfl

/-- One push more. -/
theorem wrapSp_spDown_sub_one (s : State) (k : Nat) : wrapSp s.cfg (spDown s k - 1) = spDown s (k + 1) := by
  cases k with
  | zero => rfl
  | succ k =>
    rw [spDown_succ, spDown_succ, wrapSp_sub, BitVec.ofNat_add (k + 1), ← BitVec.sub_sub]
    rfl

/-- One pop more. -/
theorem wrapSp_spUp_add_one (s : State) (k : Nat) : wrapSp s.cfg (spUp s k + 1) = spUp s (k + 1) := by
  cases k with
  | zero => rfl
  | succ k =>
    rw [spUp_succ, spUp_succ, wrapSp_add, BitVec.ofNat_add (k + 1), ← BitVec.add_assoc]
    rfl

/-- A reduced stack pointer `j + k` pushes down and then `j` pops up is `k` pushes down. -/
theorem spUp_of_spDown {s u : State} {j k : Nat} (hcfg : u.cfg = s.cfg) (hsp : u.sp = spDown s (j + k))
    (hwrap : s.sp = wrapSp s.cfg s.sp) : spUp u j = spDown s k := by
  induction j generalizing k with
  | zero => rw [spUp_zero, hsp, Nat.zero_add]
  | succ j ih =>
    have up : spUp u j = spDown s (k + 1) := ih (by rw [hsp]; congr 1; omega)
    rw [← wrapSp_spUp_add_one, up, hcfg, spDown_succ, wrapSp_add, BitVec.ofNat_add k, ← BitVec.sub_sub]
    rw [show (BitVec.ofNat 16 1) = 1 from rfl, BitVec.sub_add_cancel]
    cases k with
    | zero => rw [BitVec.sub_zero, ← hwrap, spDown_zero]
    | succ k => rfl

/-! ### The return address pushed (R74) -/

/-- The stack bytes are different. -/
theorem PushBytes.ne {s : State} {n j k : Nat} {b : Nat → Nat} (h : PushBytes s n b) (hj : j < n) (hk : k < n)
    (hjk : j ≠ k) : b j ≠ b k := by
  obtain ⟨-, hinj⟩ := h
  exact fun e => hjk (hinj j k hj hk e)

/-- The push of the byte number `k` of a stack that lies in SRAM. -/
theorem push_nth {s : State} {n k : Nat} {b : Nat → Nat} (h : PushBytes s n b) (hk : k < n) (m : Memory) (v : Byte) :
    push v { s with sram := m, sp := spDown s k } =
      .ok () { s with sram := Memory.set m (b k) v, sp := spDown s (k + 1) } := by
  obtain ⟨hplace, -⟩ := h
  rw [← wrapSp_spDown_sub_one]
  exact push_sram v _ (hplace k hk)

/-- SRAM with a return address pushed to the bytes `b 0`, `b 1` and, with a 22-bit PC, `b 2`. -/
def pushedSram (ra : ProgAddr) (b : Nat → Nat) (s : State) : Memory :=
  let m := Memory.set (Memory.set s.sram (b 0) (ra.extractLsb' 0 8)) (b 1) (ra.extractLsb' 8 8)
  if longPc s.cfg then Memory.set m (b 2) ((ra.extractLsb' 16 6).setWidth 8) else m

theorem pcBytes_long {c : Config} (h : longPc c = true) : pcBytes c = 3 := if_pos h

theorem pcBytes_short {c : Config} (h : longPc c = false) : pcBytes c = 2 := by
  rw [pcBytes, h]; rfl

theorem two_le_pcBytes (c : Config) : 2 ≤ pcBytes c := by
  unfold pcBytes
  split <;> decide

/-- `PushPC` to a stack that lies in SRAM. -/
theorem pushPc_sram (ra : ProgAddr) {b : Nat → Nat} {s : State} (h : PushBytes s (pcBytes s.cfg) b) :
    pushPc ra s = .ok () { s with sram := pushedSram ra b s, sp := spDown s (pcBytes s.cfg) } := by
  have two := two_le_pcBytes s.cfg
  have first := push_nth h (k := 0) (by omega) s.sram (ra.extractLsb' 0 8)
  have second := push_nth h (k := 1) (by omega) (Memory.set s.sram (b 0) (ra.extractLsb' 0 8)) (ra.extractLsb' 8 8)
  have third := fun three : 2 < pcBytes s.cfg => push_nth h three
    (Memory.set (Memory.set s.sram (b 0) (ra.extractLsb' 0 8)) (b 1) (ra.extractLsb' 8 8))
    ((ra.extractLsb' 16 6).setWidth 8)
  rw [spDown_zero] at first
  rw [pushPc, first, Res.ok_bind, second, Res.ok_bind, pushedSram]
  cases hlong : longPc s.cfg with
  | true =>
    rw [pcBytes_long hlong] at third ⊢
    exact third (by decide)
  | false =>
    rw [pcBytes_short hlong]
    rfl

/-- An SRAM byte after a byte of SRAM is written. -/
theorem State.sramByte_set (s : State) (m : Memory) (sp : Word) (a x : Nat) (v : Byte) :
    ({ s with sram := Memory.set m a v, sp := sp } : State).sramByte x =
      if x = a then v else ({ s with sram := m, sp := sp } : State).sramByte x := by
  show (Memory.get (Memory.set m a v) x).getD _ = _
  rw [Memory.get_set]
  split <;> rfl

/-- The bytes of a return address as numbers. -/
theorem returnAddress_bytes (ra : ProgAddr) : (ra.extractLsb' 0 8).toNat = ra.toNat % 256 ∧
    (ra.extractLsb' 8 8).toNat = ra.toNat / 256 % 256 ∧
    ((ra.extractLsb' 16 6).setWidth 8).toNat = ra.toNat / 65536 := by
  have hra := ra.isLt
  simp only [BitVec.toNat_setWidth, extract_toNat]
  omega

/-- What `PushPC` leaves in SRAM is the return address, and every other byte as before. -/
theorem pushedPc_pushedSram (ra : ProgAddr) {b : Nat → Nat} {s : State} (h : PushBytes s (pcBytes s.cfg) b) :
    PushedPc ra.toNat b s { s with sram := pushedSram ra b s, sp := spDown s (pcBytes s.cfg) } := by
  obtain ⟨low, high, top⟩ := returnAddress_bytes ra
  have h01 : b 0 ≠ b 1 := h.ne (by have := two_le_pcBytes s.cfg; omega) (two_le_pcBytes s.cfg) (by decide)
  unfold pushedSram
  cases hlong : longPc s.cfg with
  | true =>
    have h02 : b 0 ≠ b 2 := h.ne (by rw [pcBytes_long hlong]; decide) (by rw [pcBytes_long hlong]; decide) (by decide)
    have h12 : b 1 ≠ b 2 := h.ne (by rw [pcBytes_long hlong]; decide) (by rw [pcBytes_long hlong]; decide) (by decide)
    refine ⟨?low, ?high, fun _ => ?top, fun x hx => ?others, rfl, rfl⟩
    case low => simpa only [if_true, State.sramByte_set, if_neg h02, if_neg h01] using low
    case high => simpa only [if_true, State.sramByte_set, if_neg h12] using high
    case top => simpa only [if_true, State.sramByte_set] using top
    case others =>
      rw [pcBytes_long hlong] at hx
      have h0 := hx 0 (by decide); have h1 := hx 1 (by decide); have h2 := hx 2 (by decide)
      simp only [if_true, State.sramByte_set, if_neg h0, if_neg h1, if_neg h2]
      rfl
  | false =>
    refine ⟨?low, ?high, fun l => ?top, fun x hx => ?others, rfl, rfl⟩
    case low => simpa only [Bool.false_eq_true, if_false, if_true, State.sramByte_set, if_neg h01] using low
    case high => simpa only [Bool.false_eq_true, if_false, if_true, State.sramByte_set] using high
    case top => exact absurd l (by rw [hlong]; decide)
    case others =>
      rw [pcBytes_short hlong] at hx
      have h0 := hx 0 (by decide); have h1 := hx 1 (by decide)
      simp only [Bool.false_eq_true, if_false, State.sramByte_set, if_neg h0, if_neg h1]
      rfl

/-- Settles O23: the pushes one after the other, and the bytes they leave. -/
theorem pushReturnAddress : Obligations.PushReturnAddress :=
  fun ra _ _ h _ => ⟨_, pushPc_sram ra h, pushedPc_pushedSram ra h⟩

/-! ### The return address popped (R75) -/

/-- The pop of the byte number `k` of a stack that lies in SRAM. -/
theorem pop_nth {s : State} {n k : Nat} {b : Nat → Nat} (h : PopBytes s n b) (hk : k < n) :
    pop { s with sp := spUp s k } = .ok (s.sramByte (b k)) { s with sp := spUp s (k + 1) } := by
  have hplace : place s.cfg (wrapSp s.cfg (spUp s k + 1)).toNat = .sram (b k) := by
    rw [wrapSp_spUp_add_one]
    exact h k hk
  rw [← wrapSp_spUp_add_one]
  exact pop_sram { s with sp := spUp s k } hplace

/-- `PopPC` from a stack that lies in SRAM. -/
theorem popPc_sram {s : State} {b : Nat → Nat} (h : PopBytes s (pcBytes s.cfg) b) :
    ∃ ra, popPc s = .ok ra { s with sp := spUp s (pcBytes s.cfg) } ∧ ra.toNat = poppedPc s b := by
  have two := two_le_pcBytes s.cfg
  have first := pop_nth h (k := 0) (by omega)
  have second := pop_nth h (k := 1) (by omega)
  rw [spUp_zero] at first
  change pop s = _ at first
  unfold popPc poppedPc
  have b0 := (s.sramByte (b 0)).isLt; have b1 := (s.sramByte (b 1)).isLt; have b2 := (s.sramByte (b 2)).isLt
  cases hlong : longPc s.cfg with
  | true =>
    rw [pcBytes_long hlong] at h ⊢
    have third := pop_nth h (k := 2) (by decide)
    refine ⟨_, by rw [if_pos rfl, first, Res.ok_bind, second, Res.ok_bind, third, Res.ok_bind], ?_⟩
    rw [if_pos rfl, append_toNat, append_toNat, extract_toNat]
    omega
  | false =>
    rw [pcBytes_short hlong]
    refine ⟨_, by rw [if_neg Bool.false_ne_true, first, Res.ok_bind, second, Res.ok_bind], ?_⟩
    rw [if_neg Bool.false_ne_true, BitVec.toNat_setWidth, append_toNat]
    omega

/-- After a push the bytes to be popped are the bytes pushed, the last one first. -/
theorem PushBytes.popBytes {s u : State} {n : Nat} {b : Nat → Nat} (h : PushBytes s n b) (hcfg : u.cfg = s.cfg)
    (hsp : u.sp = spDown s n) (hwrap : s.sp = wrapSp s.cfg s.sp) : PopBytes u n fun k => b (n - 1 - k) := by
  obtain ⟨hplace, -⟩ := h
  intro k hk
  have up : spUp u (k + 1) = spDown s (n - 1 - k) :=
    spUp_of_spDown hcfg (hsp.trans (congrArg (spDown s) (by omega))) hwrap
  rw [hcfg, up]
  exact hplace _ (by omega)

theorem PushedPc.cfg {ra : Nat} {b : Nat → Nat} {s u : State} (h : PushedPc ra b s u) : u.cfg = s.cfg := by
  rw [h.rest]

/-- The bytes a return address was pushed to, popped, are that address. -/
theorem PushedPc.poppedPc {ra : Nat} {b : Nat → Nat} {s u : State} (h : PushedPc ra b s u)
    (hra : ra < 2 ^ pcBits s.cfg.pcWidth) : poppedPc u (fun k => b (pcBytes s.cfg - 1 - k)) = ra := by
  have hcfg := h.cfg
  obtain ⟨low, high, top, -, -, -⟩ := h
  unfold Machine.poppedPc
  rw [hcfg]
  cases hlong : longPc s.cfg with
  | true =>
    have hwidth : s.cfg.pcWidth = .bits22 := of_decide_eq_true hlong
    rw [hwidth] at hra
    simp only [pcBits] at hra
    rw [pcBytes_long hlong, if_pos rfl]
    simp only [Nat.reduceSub, low, high, top hlong]
    omega
  | false =>
    have hra16 : ra < 2 ^ 16 := by
      refine hra.trans_le (Nat.pow_le_pow_right (by decide) ?_)
      cases hwidth : s.cfg.pcWidth with
      | upTo16 n => exact n.isLt
      | bits22 => exact absurd (decide_eq_true hwidth) (by rw [← longPc, hlong]; decide)
    rw [pcBytes_short hlong, if_neg Bool.false_ne_true]
    simp only [Nat.reduceSub, low, high]
    omega

/-- `PopPC` where a return address was pushed answers it and restores the stack pointer. -/
theorem PushedPc.popPc {ra : ProgAddr} {b : Nat → Nat} {s u : State} (h : PushedPc ra.toNat b s u)
    (hbytes : PushBytes s (pcBytes s.cfg) b) (hwrap : s.sp = wrapSp s.cfg s.sp)
    (hra : ra.toNat < 2 ^ pcBits s.cfg.pcWidth) : popPc u = .ok ra { u with sp := s.sp } := by
  have bytes := hbytes.popBytes h.cfg h.sp hwrap
  have restored : spUp u (pcBytes s.cfg) = s.sp := spUp_of_spDown (k := 0) h.cfg h.sp hwrap
  rw [← h.cfg] at bytes
  obtain ⟨ra', hpop, hra'⟩ := popPc_sram bytes
  rw [h.cfg, h.poppedPc hra] at hra'
  rw [hpop, BitVec.eq_of_toNat_eq hra', h.cfg, restored]

/-- Settles O24: the bytes pushed are popped in the opposite order, from the places the stack pointer comes back to. -/
theorem popInvertsPush : Obligations.PopInvertsPush := by
  refine ⟨fun ra b s u hbytes hwrap hra hpush => ?inverse, fun b s hbytes => ?order⟩
  case inverse =>
    rw [pushPc_sram ra hbytes] at hpush
    cases hpush
    exact ⟨_, (pushedPc_pushedSram ra hbytes).popPc hbytes hwrap hra, rfl, rfl, rfl, rfl⟩
  case order =>
    obtain ⟨ra, hpop, hra⟩ := popPc_sram hbytes
    exact ⟨ra, _, hpop, hra, rfl⟩

end Sys2Proof.Machine

namespace Sys2Proof.Machine

/-! SUPPORT. The statements of 30_encoding.md: the decoder and the encoder undo each other, the operand fields, and the
second names of instructions. -/

open Sys2Proof

/-! ### The two-word test (R103) -/

/-- The first words of LDS, STS, JMP and CALL, as numbers. -/
def IsTwoWordNat (n : Nat) : Prop := n / 1024 = 36 ∧ n % 16 = 0 ∨ n / 512 = 74 ∧ 12 ≤ n % 16

/-- The mask of LDS and STS drops bits 8 to 4. -/
theorem Word.and_FE0F (w : Word) : (w &&& 0xFE0F#16).toNat = w.toNat / 512 * 512 + w.toNat % 16 := by
  have hw := w.isLt
  have parts : w = w.extractLsb' 9 7 ++ (w.extractLsb' 4 5 ++ w.extractLsb' 0 4) := BitVec.eq_of_toNat_eq (by
    simp only [append_toNat, extract_toNat]; omega)
  have mask : 0xFE0F#16 = BitVec.allOnes 7 ++ (0#5 ++ BitVec.allOnes 4) := by decide
  have masked : w &&& 0xFE0F#16 = w.extractLsb' 9 7 ++ (0#5 ++ w.extractLsb' 0 4) := by
    conv_lhs => rw [parts, mask]
    rw [BitVec.and_append, BitVec.and_append, BitVec.and_allOnes, BitVec.and_allOnes, BitVec.and_zero]
  rw [masked]
  simp only [append_toNat, extract_toNat, BitVec.toNat_ofNat]
  omega

/-- The mask of JMP and CALL drops bits 8 to 4 and bit 0. -/
theorem Word.and_FE0E (w : Word) : (w &&& 0xFE0E#16).toNat = w.toNat / 512 * 512 + w.toNat / 2 % 8 * 2 := by
  have hw := w.isLt
  have parts : w = w.extractLsb' 9 7 ++ (w.extractLsb' 4 5 ++ (w.extractLsb' 1 3 ++ w.extractLsb' 0 1)) :=
    BitVec.eq_of_toNat_eq (by simp only [append_toNat, extract_toNat]; omega)
  have mask : 0xFE0E#16 = BitVec.allOnes 7 ++ (0#5 ++ (BitVec.allOnes 3 ++ 0#1)) := by decide
  have masked : w &&& 0xFE0E#16 = w.extractLsb' 9 7 ++ (0#5 ++ (w.extractLsb' 1 3 ++ 0#1)) := by
    conv_lhs => rw [parts, mask]
    rw [BitVec.and_append, BitVec.and_append, BitVec.and_append, BitVec.and_allOnes, BitVec.and_allOnes,
      BitVec.and_zero, BitVec.and_zero]
  rw [masked]
  simp only [append_toNat, extract_toNat, BitVec.toNat_ofNat]
  omega

/-- The masks and patterns of R103 as a test of the opcode bits. -/
theorem isTwoWord_iff (w : Word) : isTwoWord w = true ↔ IsTwoWordNat w.toNat := by
  have hw := w.isLt
  simp only [isTwoWord, Bool.or_eq_true, beq_iff_eq, ← BitVec.toNat_inj, Word.and_FE0F, Word.and_FE0E,
    BitVec.toNat_ofNat, IsTwoWordNat]
  omega

/-! ### Fields as numbers (R104 to R108) -/

theorem regOf_val (n : Nat) : (regOf n).val = n % 32 := rfl

theorem bitOf_val (n : Nat) : (bitOf n).val = n % 8 := rfl

theorem fieldD_val (n : Nat) : (fieldD n).val = n / 16 % 32 := by
  simp only [fieldD, regOf_val]; omega

theorem fieldR_val (n : Nat) : (fieldR n).val = n / 512 % 2 * 16 + n % 16 := by
  simp only [fieldR, regOf_val]; omega

theorem fieldUpper_val (n : Nat) : (fieldUpper n).val = 16 + n / 16 % 16 := by
  simp only [fieldUpper, regOf_val]; omega

theorem fieldUpperLow_val (n : Nat) : (fieldUpperLow n).val = 16 + n % 16 := by
  simp only [fieldUpperLow, regOf_val]; omega

theorem fieldPair_val (n : Nat) : (fieldPair n).val = 24 + 2 * (n / 16 % 4) := by
  simp only [fieldPair, regOf_val]; omega

theorem fieldB_val (n : Nat) : (fieldB n).val = n % 8 := by
  simp only [fieldB, bitOf_val]; omega

theorem fieldS_val (n : Nat) : (fieldS n).val = n / 16 % 8 := by
  simp only [fieldS, bitOf_val]; omega

theorem fieldK8_toNat (n : Nat) : (fieldK8 n).toNat = n / 256 % 16 * 16 + n % 16 := by
  simp only [fieldK8, BitVec.toNat_ofNat]; omega

theorem fieldK6_toNat (n : Nat) : (fieldK6 n).toNat = n / 64 % 4 * 16 + n % 16 := by
  simp only [fieldK6, BitVec.toNat_ofNat]; omega

theorem fieldQ_toNat (n : Nat) : (fieldQ n).toNat = n / 8192 % 2 * 32 + n / 1024 % 4 * 8 + n % 8 := by
  simp only [fieldQ, BitVec.toNat_ofNat]; omega

theorem fieldA6_toNat (n : Nat) : (fieldA6 n).toNat = n / 512 % 4 * 16 + n % 16 := by
  simp only [fieldA6, BitVec.toNat_ofNat]; omega

theorem fieldA5_toNat (n : Nat) : (fieldA5 n).toNat = n / 8 % 32 := by
  simp only [fieldA5, BitVec.toNat_ofNat]; omega

theorem fieldK12_toNat (n : Nat) : (fieldK12 n).toNat = n % 4096 := by
  simp only [fieldK12, BitVec.toNat_ofNat]; omega

theorem fieldK7_toNat (n : Nat) : (fieldK7 n).toNat = n / 8 % 128 := by
  simp only [fieldK7, BitVec.toNat_ofNat]; omega

theorem fieldK16bit_toNat (n : Nat) : (fieldK16bit n).toNat = n / 256 % 8 * 16 + n % 16 := by
  simp only [fieldK16bit, BitVec.toNat_ofNat]; omega

theorem fieldK22_toNat (n : Nat) {n2 : Nat} (h2 : n2 < 65536) :
    (fieldK22 n n2).toNat = n / 16 % 32 * 131072 + n % 2 * 65536 + n2 := by
  simp only [fieldK22, BitVec.toNat_ofNat]; omega

theorem fieldUpper_isUpper (n : Nat) : (fieldUpper n).isUpper = true := by
  rw [RegIx.isUpper, fieldUpper_val]; exact decide_eq_true (Nat.le_add_right _ _)

theorem fieldUpperLow_isUpper (n : Nat) : (fieldUpperLow n).isUpper = true := by
  rw [RegIx.isUpper, fieldUpperLow_val]; exact decide_eq_true (Nat.le_add_right _ _)

theorem fieldPair_isWordPair (n : Nat) : (fieldPair n).isWordPair = true := by
  rw [RegIx.isWordPair, fieldPair_val]; exact decide_eq_true (by omega)

theorem regOf_isMiddle (k : Nat) : (regOf (16 + k % 8)).isMiddle = true := by
  rw [RegIx.isMiddle, regOf_val]; exact decide_eq_true (by omega)

theorem regOf_isEven (k : Nat) : (regOf (2 * k)).isEven = true := by
  rw [RegIx.isEven, regOf_val]; exact decide_eq_true (by omega)

/-! ### A format over the fields of a word is that word -/

/-- The low nine bits of a word: bits 8 to 4, 3, and 2 to 0. -/
theorem bits_below_512 (n : Nat) : n = n / 512 * 512 + n / 16 % 32 * 16 + n / 8 % 2 * 8 + n % 8 := by omega

/-- The low five bits of a number: bits 4, 3, 2 to 1, and 0. -/
theorem bits_below_32 (m : Nat) : m = m / 32 * 32 + m / 16 % 2 * 16 + m / 8 % 2 * 8 + m / 2 % 4 * 2 + m % 2 := by omega

/-- The three parts of a displacement `a : b : c` (R107). -/
theorem displacement_digits {a b c : Nat} (_ : a < 2) (hb : b < 4) (hc : c < 8) :
    (a * 32 + b * 8 + c) / 32 = a ∧ (a * 32 + b * 8 + c) / 8 % 4 = b ∧ (a * 32 + b * 8 + c) % 8 = c := by omega

section Fields

variable {op n : Nat}

theorem encRdRr_fields (h : op = n / 1024 * 1024) : encRdRr op (fieldD n) (fieldR n) = n := by
  simp only [encRdRr, fieldD_val, fieldR_val]; omega

theorem encRd_fields (h : op = n / 512 * 512 + n % 16) : encRd op (fieldD n) = n := by
  simp only [encRd, fieldD_val]; omega

theorem encRdK8_fields (h : op = n / 4096 * 4096) : encRdK8 op (fieldUpper n) (fieldK8 n) = n := by
  simp only [encRdK8, fieldUpper_val, fieldK8_toNat]; omega

theorem encRpK6_fields (h : op = n / 256 * 256) : encRpK6 op (fieldPair n) (fieldK6 n) = n := by
  simp only [encRpK6, fieldPair_val, fieldK6_toNat]; omega

theorem encRd4Rr4_fields (h : op = n / 256 * 256) : encRd4Rr4 op (fieldUpper n) (fieldUpperLow n) = n := by
  simp only [encRd4Rr4, fieldUpper_val, fieldUpperLow_val]; omega

theorem encRp4Rp4_fields (h : op = n / 256 * 256) :
    encRp4Rp4 op (regOf (2 * (n / 16 % 16))) (regOf (2 * (n % 16))) = n := by
  have hd : (regOf (2 * (n / 16 % 16))).val / 2 = n / 16 % 16 := by rw [regOf_val]; omega
  have hr : (regOf (2 * (n % 16))).val / 2 = n % 16 := by rw [regOf_val]; omega
  rw [encRp4Rp4, hd, hr]
  omega

theorem encRd3Rr3_fields (h : op = n / 256 * 256 + n / 128 % 2 * 128 + n / 8 % 2 * 8) :
    encRd3Rr3 op (regOf (16 + n / 16 % 8)) (regOf (16 + n % 8)) = n := by
  simp only [encRd3Rr3, regOf_val]; omega

theorem encSk7_fields (h : op = n / 1024 * 1024) : encSk7 op (fieldB n) (fieldK7 n) = n := by
  simp only [encSk7, fieldB_val, fieldK7_toNat]; omega

theorem encRb_fields (h : op = n / 512 * 512) (h8 : n / 8 % 2 = 0) : encRb op (fieldD n) (fieldB n) = n := by
  simp only [encRb, fieldD_val, fieldB_val]; omega

theorem encA5b_fields (h : op = n / 256 * 256) : encA5b op (fieldA5 n) (fieldB n) = n := by
  simp only [encA5b, fieldA5_toNat, fieldB_val]; omega

theorem encRdA6_fields (h : op = n / 2048 * 2048) : encRdA6 op (fieldD n) (fieldA6 n) = n := by
  simp only [encRdA6, fieldD_val, fieldA6_toNat]; omega

theorem encRdq_fields (h : op = n / 16384 * 16384 + n / 4096 % 2 * 4096 + n / 512 % 2 * 512 + n / 8 % 2 * 8) :
    encRdq op (fieldD n) (fieldQ n) = n := by
  obtain ⟨q5, q43, q20⟩ := displacement_digits (a := n / 8192 % 2) (b := n / 1024 % 4) (c := n % 8)
    (Nat.mod_lt _ (by decide)) (Nat.mod_lt _ (by decide)) (Nat.mod_lt _ (by decide))
  have low := bits_below_512 n
  have high := bits_below_32 (n / 512)
  simp only [Nat.div_div_eq_div_mul, Nat.reduceMul] at high
  rw [encRdq, fieldQ_toNat, q5, q43, q20, fieldD_val]
  linear_combination h - 512 * high - low

theorem encRdk7_fields (h : op = n / 2048 * 2048) : encRdk7 op (fieldUpper n) (fieldK16bit n) = n := by
  simp only [encRdk7, fieldUpper_val, fieldK16bit_toNat]; omega

theorem encS_fields (h : op = n / 128 * 128 + n % 16) : encS op (fieldS n) = n := by
  simp only [encS, fieldS_val]; omega

theorem encK22_fields {n2 : Nat} (h : op = n / 512 * 512 + n % 16 / 2 * 2) (h2 : n2 < 65536) :
    encK22 op (fieldK22 n n2) = n := by
  simp only [encK22, fieldK22_toNat n h2]; omega

end Fields

/-! ### What the decoder reads from a pair of words -/

/-- What holds of an instruction that is the right reading of the words `n` and `n2`. -/
structure Reading (core : Core) (n n2 : Nat) (i : Instr) : Prop where
  wellFormed : i.wellFormed = true
  encodable : i.encodableOn core = true
  canonical : i.canonical = i
  one : ¬ IsTwoWordNat n → encode i = oneWord n
  two : IsTwoWordNat n → encode i = twoWords n n2

section Decoder

variable {core : Core} {n n2 : Nat} {i : Instr}

theorem Reading.of_oneWord (words : encode i = oneWord n) (h : ¬ IsTwoWordNat n) (wf : i.wellFormed = true)
    (enc : i.encodableOn core = true) (canon : i.canonical = i) : Reading core n n2 i :=
  ⟨wf, enc, canon, fun _ => words, fun h2 => absurd h2 h⟩

theorem Reading.of_twoWords (words : encode i = twoWords n n2) (h : IsTwoWordNat n) (wf : i.wellFormed = true)
    (enc : i.encodableOn core = true) (canon : i.canonical = i) : Reading core n n2 i :=
  ⟨wf, enc, canon, fun h1 => absurd h h1, fun _ => words⟩

/-- Outside `1001 00` and `1001 010` every word is an instruction of its own. -/
theorem not_isTwoWordNat (h1 : n / 1024 ≠ 36) (h2 : n / 512 ≠ 74) : ¬ IsTwoWordNat n := by
  unfold IsTwoWordNat; omega

theorem decode0_reading (hn : n / 4096 = 0) (h : decode0 n = some i) : Reading core n n2 i := by
  have one : ¬ IsTwoWordNat n := not_isTwoWordNat (by omega) (by omega)
  unfold decode0 at h
  split_ifs at h <;> cases h
  case pos => exact .of_oneWord (congrArg oneWord (by omega)) one rfl rfl rfl
  case pos =>
    exact .of_oneWord (congrArg oneWord (encRp4Rp4_fields (by omega))) one
      (by rw [Instr.wellFormed, regOf_isEven, regOf_isEven]; rfl) rfl rfl
  case pos =>
    exact .of_oneWord (congrArg oneWord (encRd4Rr4_fields (by omega))) one
      (by rw [Instr.wellFormed, fieldUpper_isUpper, fieldUpperLow_isUpper]; rfl) rfl rfl
  case pos | neg | pos | neg =>
    exact .of_oneWord (congrArg oneWord (encRd3Rr3_fields (by omega))) one
      (by rw [Instr.wellFormed, regOf_isMiddle, regOf_isMiddle]; rfl) rfl rfl
  all_goals exact .of_oneWord (congrArg oneWord (encRdRr_fields (by omega))) one rfl rfl rfl

theorem decode1_reading (hn : n / 4096 = 1) (h : decode1 n = some i) : Reading core n n2 i := by
  have one : ¬ IsTwoWordNat n := not_isTwoWordNat (by omega) (by omega)
  unfold decode1 at h
  split_ifs at h <;> cases h
  all_goals exact .of_oneWord (congrArg oneWord (encRdRr_fields (by omega))) one rfl rfl rfl

theorem decode2_reading (hn : n / 4096 = 2) (h : decode2 n = some i) : Reading core n n2 i := by
  have one : ¬ IsTwoWordNat n := not_isTwoWordNat (by omega) (by omega)
  unfold decode2 at h
  split_ifs at h <;> cases h
  all_goals exact .of_oneWord (congrArg oneWord (encRdRr_fields (by omega))) one rfl rfl rfl

theorem encodable_fieldQ (hn : n / 4096 = 8 ∨ n / 4096 = 10 ∧ core ≠ .rc) :
    (decide (core ≠ .rc) || decide ((fieldQ n).toNat < 32)) = true := by
  rw [Bool.or_eq_true, decide_eq_true_eq, decide_eq_true_eq, fieldQ_toNat]
  rcases hn with hn | ⟨-, hcore⟩
  · exact .inr (by omega)
  · exact .inl hcore

theorem decodeDisplacement_reading (hn : n / 4096 = 8 ∨ n / 4096 = 10 ∧ core ≠ .rc)
    (h : decodeDisplacement n = some i) : Reading core n n2 i := by
  have one : ¬ IsTwoWordNat n := not_isTwoWordNat (by omega) (by omega)
  unfold decodeDisplacement at h
  split_ifs at h <;> cases h
  all_goals exact .of_oneWord (congrArg oneWord (encRdq_fields (by omega))) one rfl (encodable_fieldQ hn) rfl

theorem decode16Bit_reading (hn : n / 4096 = 10) (h : decode16Bit n = some i) : Reading .rc n n2 i := by
  have one : ¬ IsTwoWordNat n := not_isTwoWordNat (by omega) (by omega)
  unfold decode16Bit at h
  split_ifs at h <;> cases h
  all_goals exact .of_oneWord (congrArg oneWord (encRdk7_fields (by omega))) one (fieldUpper_isUpper n) rfl rfl

/-- A second word comes back as it was. -/
theorem Word.ofNat_toNat (h2 : n2 < 65536) : (BitVec.ofNat 16 n2).toNat = n2 := Nat.mod_eq_of_lt h2

theorem decodeLoad_reading (hn : n / 512 = 72) (h2 : n2 < 65536) (h : decodeLoad n n2 = some i) :
    Reading core n n2 i := by
  unfold decodeLoad at h
  split at h <;> cases h
  case h_1 low =>
    exact .of_twoWords (congrArg₂ twoWords (encRd_fields (by omega)) (Word.ofNat_toNat h2))
      (by unfold IsTwoWordNat; omega) rfl rfl rfl
  all_goals
    exact .of_oneWord (congrArg oneWord (encRd_fields (by omega))) (by unfold IsTwoWordNat; omega) rfl rfl rfl

theorem decodeStore_reading (hn : n / 512 = 73) (h2 : n2 < 65536) (h : decodeStore n n2 = some i) :
    Reading core n n2 i := by
  unfold decodeStore at h
  split at h <;> cases h
  case h_1 low =>
    exact .of_twoWords (congrArg₂ twoWords (encRd_fields (by omega)) (Word.ofNat_toNat h2))
      (by unfold IsTwoWordNat; omega) rfl rfl rfl
  all_goals
    exact .of_oneWord (congrArg oneWord (encRd_fields (by omega))) (by unfold IsTwoWordNat; omega) rfl rfl rfl

theorem decodeMisc_reading (hn : n / 256 = 149) (hlow : n % 16 = 8) (h : decodeMisc n = some i) :
    Reading core n n2 i := by
  unfold decodeMisc at h
  split at h <;> cases h
  all_goals exact .of_oneWord (congrArg oneWord (by omega)) (by unfold IsTwoWordNat; omega) rfl rfl rfl

theorem decodeIndirect_reading (hn : n / 512 = 74) (hlow : n % 16 = 9) (h : decodeIndirect n = some i) :
    Reading core n n2 i := by
  unfold decodeIndirect at h
  split at h <;> cases h
  all_goals exact .of_oneWord (congrArg oneWord (by omega)) (by unfold IsTwoWordNat; omega) rfl rfl rfl

theorem decodeOne_reading (hn : n / 512 = 74) (h2 : n2 < 65536) (h : decodeOne n n2 = some i) :
    Reading core n n2 i := by
  have jump : ∀ op, op = n / 512 * 512 + n % 16 / 2 * 2 →
      twoWords (encK22 op (fieldK22 n n2)) ((fieldK22 n n2).toNat % 65536) = twoWords n n2 := fun op hop =>
    congrArg₂ twoWords (encK22_fields hop h2) (by rw [fieldK22_toNat n h2]; omega)
  unfold decodeOne at h
  split at h
  case h_8 low =>
    by_cases bit8 : n / 256 % 2 = 0
    case neg => exact decodeMisc_reading (by omega) low ((if_neg bit8).symm.trans h)
    case pos =>
      rw [if_pos bit8] at h
      split_ifs at h <;> cases h
      all_goals
        exact .of_oneWord (congrArg oneWord (encS_fields (by omega))) (by unfold IsTwoWordNat; omega) rfl rfl rfl
  case h_9 low => exact decodeIndirect_reading hn low h
  case h_11 low =>
    split_ifs at h
    cases h
    refine .of_oneWord (congrArg oneWord ?_) (by unfold IsTwoWordNat; omega) rfl rfl rfl
    rw [BitVec.toNat_ofNat]; omega
  case h_12 low | h_13 low | h_14 low | h_15 low =>
    cases h
    exact .of_twoWords (jump _ (by omega)) (by unfold IsTwoWordNat; omega) rfl rfl rfl
  all_goals cases h
  all_goals
    exact .of_oneWord (congrArg oneWord (encRd_fields (by omega))) (by unfold IsTwoWordNat; omega) rfl rfl rfl

theorem decode9_reading (hn : n / 4096 = 9) (h2 : n2 < 65536) (h : decode9 n n2 = some i) :
    Reading core n n2 i := by
  have top : n / 256 / 16 = 9 := by omega
  unfold decode9 at h
  split at h
  case h_1 | h_2 => exact decodeLoad_reading (by omega) h2 h
  case h_3 | h_4 => exact decodeStore_reading (by omega) h2 h
  case h_5 | h_6 => exact decodeOne_reading (by omega) h2 h
  case h_13 =>
    simp only [imp_false] at *
    have one : ¬ IsTwoWordNat n := not_isTwoWordNat (by omega) (by omega)
    cases h
    exact .of_oneWord (congrArg oneWord (encRdRr_fields (by omega))) one rfl rfl rfl
  all_goals
    have one : ¬ IsTwoWordNat n := not_isTwoWordNat (by omega) (by omega)
    cases h
  case h_7 | h_8 =>
    exact .of_oneWord (congrArg oneWord (encRpK6_fields (by omega))) one (fieldPair_isWordPair n) rfl rfl
  all_goals exact .of_oneWord (congrArg oneWord (encA5b_fields (by omega))) one rfl rfl rfl

theorem decode15_reading (hn : n / 4096 = 15) (h : decode15 n = some i) : Reading core n n2 i := by
  have one : ¬ IsTwoWordNat n := not_isTwoWordNat (by omega) (by omega)
  unfold decode15 at h
  split_ifs at h <;> cases h
  case pos | pos => exact .of_oneWord (congrArg oneWord (encSk7_fields (by omega))) one rfl rfl rfl
  all_goals exact .of_oneWord (congrArg oneWord (encRb_fields (by omega) (by omega))) one rfl rfl rfl

/-- What the opcode map answers is the right reading of its words. -/
theorem decodeNat_reading (h2 : n2 < 65536) (h : decodeNat core n n2 = some i) : Reading core n n2 i := by
  unfold decodeNat at h
  split at h
  case h_1 hn => exact decode0_reading hn h
  case h_2 hn => exact decode1_reading hn h
  case h_3 hn => exact decode2_reading hn h
  case h_9 hn => exact decodeDisplacement_reading (.inl hn) h
  case h_10 hn => exact decode9_reading hn h2 h
  case h_11 hn =>
    split_ifs at h with hcore
    · subst hcore; exact decode16Bit_reading hn h
    · exact decodeDisplacement_reading (.inr ⟨hn, hcore⟩) h
  case h_16 hn => exact decode15_reading hn h
  case h_17 => cases h
  all_goals have one : ¬ IsTwoWordNat n := not_isTwoWordNat (by omega) (by omega)
  case h_12 hn =>
    split_ifs at h <;> cases h
    all_goals exact .of_oneWord (congrArg oneWord (encRdA6_fields (by omega))) one rfl rfl rfl
  case h_13 | h_14 =>
    cases h
    refine .of_oneWord (congrArg oneWord ?_) one rfl rfl rfl
    rw [fieldK12_toNat]; omega
  all_goals
    cases h
    exact .of_oneWord (congrArg oneWord (encRdK8_fields (by omega))) one (fieldUpper_isUpper n) rfl rfl

end Decoder

/-- Settles O2: the opcode map is read group by group, each over its formats. -/
theorem encodeDecode : Obligations.EncodeDecode := by
  intro core w w2 i h
  obtain ⟨wf, enc, canon, one, two⟩ := decodeNat_reading w2.isLt h
  refine ⟨wf, enc, canon, ?_⟩
  split
  case isTrue h2 =>
    rw [two ((isTwoWord_iff w).1 h2), twoWords, BitVec.ofNat_toNat, BitVec.ofNat_toNat, BitVec.setWidth_eq,
      BitVec.setWidth_eq]
  case isFalse h2 =>
    rw [one fun k => h2 ((isTwoWord_iff w).2 k), oneWord, BitVec.ofNat_toNat, BitVec.setWidth_eq]

/-! ### The fields of an encoded instruction -/

section Formats

variable {op : Nat}

theorem encRdRr_reads (h : op % 1024 = 0) (d r : RegIx) : encRdRr op d r / 1024 = op / 1024 ∧
    fieldD (encRdRr op d r) = d ∧ fieldR (encRdRr op d r) = r := by
  have hd := d.isLt; have hr := r.isLt
  refine ⟨?_, Fin.ext ?_, Fin.ext ?_⟩ <;> simp only [fieldD_val, fieldR_val, encRdRr] <;> omega

theorem encRd_reads (h : op % 512 < 16) (d : RegIx) : encRd op d / 512 = op / 512 ∧ encRd op d % 16 = op % 16 ∧
    fieldD (encRd op d) = d := by
  have hd := d.isLt
  refine ⟨?_, ?_, Fin.ext ?_⟩ <;> simp only [fieldD_val, encRd] <;> omega

theorem encRdK8_reads (h : op % 4096 = 0) {d : RegIx} (hd : d.isUpper = true) (K : Byte) :
    encRdK8 op d K / 4096 = op / 4096 ∧ fieldUpper (encRdK8 op d K) = d ∧ fieldK8 (encRdK8 op d K) = K := by
  have hd' := d.isLt; have hK := K.isLt
  have h16 : 16 ≤ d.val := of_decide_eq_true hd
  refine ⟨?_, Fin.ext ?_, BitVec.eq_of_toNat_eq ?_⟩ <;>
    simp only [fieldUpper_val, fieldK8_toNat, encRdK8] <;> omega

theorem encRpK6_reads (h : op % 256 = 0) {d : RegIx} (hd : d.isWordPair = true) (K : BitVec 6) :
    encRpK6 op d K / 256 = op / 256 ∧ fieldPair (encRpK6 op d K) = d ∧ fieldK6 (encRpK6 op d K) = K := by
  have hd' := d.isLt; have hK := K.isLt
  obtain ⟨h24, heven⟩ : 24 ≤ d.val ∧ d.val % 2 = 0 := of_decide_eq_true hd
  refine ⟨?_, Fin.ext ?_, BitVec.eq_of_toNat_eq ?_⟩ <;>
    simp only [fieldPair_val, fieldK6_toNat, encRpK6] <;> omega

theorem encRd4Rr4_reads (h : op % 256 = 0) {d r : RegIx} (hd : d.isUpper = true) (hr : r.isUpper = true) :
    encRd4Rr4 op d r / 256 = op / 256 ∧ fieldUpper (encRd4Rr4 op d r) = d ∧
      fieldUpperLow (encRd4Rr4 op d r) = r := by
  have hd' := d.isLt; have hr' := r.isLt
  have hd16 : 16 ≤ d.val := of_decide_eq_true hd
  have hr16 : 16 ≤ r.val := of_decide_eq_true hr
  refine ⟨?_, Fin.ext ?_, Fin.ext ?_⟩ <;> simp only [fieldUpper_val, fieldUpperLow_val, encRd4Rr4] <;> omega

theorem encRp4Rp4_reads (h : op % 256 = 0) {d r : RegIx} (hd : d.isEven = true) (hr : r.isEven = true) :
    encRp4Rp4 op d r / 256 = op / 256 ∧ regOf (2 * (encRp4Rp4 op d r / 16 % 16)) = d ∧
      regOf (2 * (encRp4Rp4 op d r % 16)) = r := by
  have hd' := d.isLt; have hr' := r.isLt
  have hd2 : d.val % 2 = 0 := of_decide_eq_true hd
  have hr2 : r.val % 2 = 0 := of_decide_eq_true hr
  refine ⟨?_, Fin.ext ?_, Fin.ext ?_⟩ <;> simp only [regOf_val, encRp4Rp4] <;> omega

theorem encRd3Rr3_reads (h : op % 128 = 0 ∨ op % 128 = 8) {d r : RegIx} (hd : d.isMiddle = true)
    (hr : r.isMiddle = true) : encRd3Rr3 op d r / 128 = op / 128 ∧ encRd3Rr3 op d r / 8 % 2 = op / 8 % 2 ∧
      regOf (16 + encRd3Rr3 op d r / 16 % 8) = d ∧ regOf (16 + encRd3Rr3 op d r % 8) = r := by
  have hd' : 16 ≤ d.val ∧ d.val < 24 := of_decide_eq_true hd
  have hr' : 16 ≤ r.val ∧ r.val < 24 := of_decide_eq_true hr
  refine ⟨?_, ?_, Fin.ext ?_, Fin.ext ?_⟩ <;> simp only [regOf_val, encRd3Rr3] <;> omega

theorem encSk7_reads (h : op % 1024 = 0) (s : BitIx) (k : BitVec 7) : encSk7 op s k / 1024 = op / 1024 ∧
    fieldB (encSk7 op s k) = s ∧ fieldK7 (encSk7 op s k) = k := by
  have hs := s.isLt; have hk := k.isLt
  refine ⟨?_, Fin.ext ?_, BitVec.eq_of_toNat_eq ?_⟩ <;> simp only [fieldB_val, fieldK7_toNat, encSk7] <;> omega

theorem encRb_reads (h : op % 512 = 0) (d : RegIx) (b : BitIx) : encRb op d b / 512 = op / 512 ∧
    encRb op d b / 8 % 2 = 0 ∧ fieldD (encRb op d b) = d ∧ fieldB (encRb op d b) = b := by
  have hd := d.isLt; have hb := b.isLt
  refine ⟨?_, ?_, Fin.ext ?_, Fin.ext ?_⟩ <;> simp only [fieldD_val, fieldB_val, encRb] <;> omega

theorem encA5b_reads (h : op % 256 = 0) (A : BitVec 5) (b : BitIx) : encA5b op A b / 256 = op / 256 ∧
    fieldA5 (encA5b op A b) = A ∧ fieldB (encA5b op A b) = b := by
  have hA := A.isLt; have hb := b.isLt
  refine ⟨?_, BitVec.eq_of_toNat_eq ?_, Fin.ext ?_⟩ <;> simp only [fieldA5_toNat, fieldB_val, encA5b] <;> omega

theorem encRdA6_reads (h : op % 2048 = 0) (d : RegIx) (A : BitVec 6) : encRdA6 op d A / 2048 = op / 2048 ∧
    fieldD (encRdA6 op d A) = d ∧ fieldA6 (encRdA6 op d A) = A := by
  have hd := d.isLt; have hA := A.isLt
  refine ⟨?_, Fin.ext ?_, BitVec.eq_of_toNat_eq ?_⟩ <;> simp only [fieldD_val, fieldA6_toNat, encRdA6] <;> omega

theorem encRdk7_reads (h : op % 2048 = 0) {d : RegIx} (hd : d.isUpper = true) (k : BitVec 7) :
    encRdk7 op d k / 2048 = op / 2048 ∧ fieldUpper (encRdk7 op d k) = d ∧ fieldK16bit (encRdk7 op d k) = k := by
  have hd' := d.isLt; have hk := k.isLt
  have h16 : 16 ≤ d.val := of_decide_eq_true hd
  refine ⟨?_, Fin.ext ?_, BitVec.eq_of_toNat_eq ?_⟩ <;>
    simp only [fieldUpper_val, fieldK16bit_toNat, encRdk7] <;> omega

theorem encS_reads (h : op % 128 < 16) (s : BitIx) : encS op s / 128 = op / 128 ∧ encS op s % 16 = op % 16 ∧
    fieldS (encS op s) = s := by
  have hs := s.isLt
  refine ⟨?_, ?_, Fin.ext ?_⟩ <;> simp only [fieldS_val, encS] <;> omega

end Formats

/-! ### Decoding the words of an instruction -/

/-- The second word of an instruction, 0 where it has one word. -/
def secondWord (i : Instr) : Word := (encode i).tail.headD 0

/-- The decoder reads `i` from the words of `i`. -/
def ReadsBack (core : Core) (i : Instr) : Prop := decode core (firstWord i) (secondWord i) = some i

section ReadBack

variable {core : Core} {i : Instr} {n n2 op : Nat}

theorem ReadsBack.of_oneWord (words : encode i = oneWord n) (hn : n < 65536) (h : decodeNat core n 0 = some i) :
    ReadsBack core i := by
  rw [ReadsBack, firstWord, secondWord, words, decode]
  show decodeNat core (BitVec.ofNat 16 n).toNat 0 = some i
  rwa [Word.ofNat_toNat hn]

theorem ReadsBack.of_twoWords (words : encode i = twoWords n n2) (hn : n < 65536) (hn2 : n2 < 65536)
    (h : decodeNat core n n2 = some i) : ReadsBack core i := by
  rw [ReadsBack, firstWord, secondWord, words, decode]
  show decodeNat core (BitVec.ofNat 16 n).toNat (BitVec.ofNat 16 n2).toNat = some i
  rwa [Word.ofNat_toNat hn, Word.ofNat_toNat hn2]

/-! One lemma per format: an opcode of which every word is read as one instruction over its fields. -/

theorem ReadsBack.rdRr {mk : RegIx → RegIx → Instr} {d r : RegIx}
    (words : encode (mk d r) = oneWord (encRdRr op d r)) (hop : op % 1024 = 0) (lt : op < 65536)
    (row : ∀ n, n / 1024 = op / 1024 → decodeNat core n 0 = some (mk (fieldD n) (fieldR n))) :
    ReadsBack core (mk d r) := by
  obtain ⟨top, hd, hr⟩ := encRdRr_reads hop d r
  exact .of_oneWord words (by omega) (by rw [row _ top, hd, hr])

theorem ReadsBack.rd {mk : RegIx → Instr} {d : RegIx} (words : encode (mk d) = oneWord (encRd op d))
    (hop : op % 512 < 16) (lt : op < 65536)
    (row : ∀ n, n / 512 = op / 512 → n % 16 = op % 16 → decodeNat core n 0 = some (mk (fieldD n))) :
    ReadsBack core (mk d) := by
  obtain ⟨top, low, hd⟩ := encRd_reads hop d
  exact .of_oneWord words (by omega) (by rw [row _ top low, hd])

theorem ReadsBack.rdK8 {mk : RegIx → Byte → Instr} {d : RegIx} {K : Byte}
    (words : encode (mk d K) = oneWord (encRdK8 op d K)) (hop : op % 4096 = 0) (lt : op < 65536) (hd : d.isUpper = true)
    (row : ∀ n, n / 4096 = op / 4096 → decodeNat core n 0 = some (mk (fieldUpper n) (fieldK8 n))) :
    ReadsBack core (mk d K) := by
  obtain ⟨top, hd, hK⟩ := encRdK8_reads hop hd K
  exact .of_oneWord words (by omega) (by rw [row _ top, hd, hK])

theorem ReadsBack.rpK6 {mk : RegIx → BitVec 6 → Instr} {d : RegIx} {K : BitVec 6}
    (words : encode (mk d K) = oneWord (encRpK6 op d K)) (hop : op % 256 = 0) (lt : op < 65536)
    (hd : d.isWordPair = true)
    (row : ∀ n, n / 256 = op / 256 → decodeNat core n 0 = some (mk (fieldPair n) (fieldK6 n))) :
    ReadsBack core (mk d K) := by
  obtain ⟨top, hd, hK⟩ := encRpK6_reads hop hd K
  exact .of_oneWord words (by omega) (by rw [row _ top, hd, hK])

theorem ReadsBack.rd3Rr3 {mk : RegIx → RegIx → Instr} {d r : RegIx}
    (words : encode (mk d r) = oneWord (encRd3Rr3 op d r)) (hop : op % 128 = 0 ∨ op % 128 = 8) (lt : op < 65536)
    (hwf : (d.isMiddle && r.isMiddle) = true)
    (row : ∀ n, n / 128 = op / 128 → n / 8 % 2 = op / 8 % 2 →
      decodeNat core n 0 = some (mk (regOf (16 + n / 16 % 8)) (regOf (16 + n % 8)))) :
    ReadsBack core (mk d r) := by
  obtain ⟨hd, hr⟩ := Bool.and_eq_true_iff.1 hwf
  obtain ⟨top, bit3, hd, hr⟩ := encRd3Rr3_reads hop hd hr
  exact .of_oneWord words (by omega) (by rw [row _ top bit3, hd, hr])

theorem ReadsBack.sk7 {mk : BitIx → BitVec 7 → Instr} {s : BitIx} {k : BitVec 7}
    (words : encode (mk s k) = oneWord (encSk7 op s k)) (hop : op % 1024 = 0) (lt : op < 65536)
    (row : ∀ n, n / 1024 = op / 1024 → decodeNat core n 0 = some (mk (fieldB n) (fieldK7 n))) :
    ReadsBack core (mk s k) := by
  obtain ⟨top, hs, hk⟩ := encSk7_reads hop s k
  exact .of_oneWord words (by omega) (by rw [row _ top, hs, hk])

theorem ReadsBack.rb {mk : RegIx → BitIx → Instr} {d : RegIx} {b : BitIx}
    (words : encode (mk d b) = oneWord (encRb op d b)) (hop : op % 512 = 0) (lt : op < 65536)
    (row : ∀ n, n / 512 = op / 512 → n / 8 % 2 = 0 → decodeNat core n 0 = some (mk (fieldD n) (fieldB n))) :
    ReadsBack core (mk d b) := by
  obtain ⟨top, bit3, hd, hb⟩ := encRb_reads hop d b
  exact .of_oneWord words (by omega) (by rw [row _ top bit3, hd, hb])

theorem ReadsBack.a5b {mk : BitVec 5 → BitIx → Instr} {A : BitVec 5} {b : BitIx}
    (words : encode (mk A b) = oneWord (encA5b op A b)) (hop : op % 256 = 0) (lt : op < 65536)
    (row : ∀ n, n / 256 = op / 256 → decodeNat core n 0 = some (mk (fieldA5 n) (fieldB n))) :
    ReadsBack core (mk A b) := by
  obtain ⟨top, hA, hb⟩ := encA5b_reads hop A b
  exact .of_oneWord words (by omega) (by rw [row _ top, hA, hb])

theorem ReadsBack.s {mk : BitIx → Instr} {s : BitIx} (words : encode (mk s) = oneWord (encS op s))
    (hop : op % 128 < 16) (lt : op < 65536)
    (row : ∀ n, n / 128 = op / 128 → n % 16 = op % 16 → decodeNat core n 0 = some (mk (fieldS n))) :
    ReadsBack core (mk s) := by
  obtain ⟨top, low, hs⟩ := encS_reads hop s
  exact .of_oneWord words (by omega) (by rw [row _ top low, hs])

/-- Words `10q0 qqod dddd oqqq`: the two opcode bits `o`, the pointer and the direction, stand at bits 9 and 3. -/
theorem encRdq_reads {store y : Nat} (hs : store < 2) (hy : y < 2) (d : RegIx) (q : BitVec 6) :
    let n := encRdq (32768 + store * 512 + y * 8) d q
    n / 4096 = 8 + 2 * (q.toNat / 32) ∧ n / 512 % 2 = store ∧ n / 8 % 2 = y ∧ fieldD n = d ∧ fieldQ n = q := by
  have hd := d.isLt; have hq := q.isLt
  have a := Nat.div_lt_of_lt_mul (show q.toNat < 32 * 2 from hq)
  have b : q.toNat / 8 % 4 < 4 := Nat.mod_lt _ (by decide)
  have c : q.toNat % 8 < 8 := Nat.mod_lt _ (by decide)
  have digits : q.toNat = q.toNat / 32 * 32 + q.toNat / 8 % 4 * 8 + q.toNat % 8 := by omega
  dsimp only
  refine ⟨?_, ?_, ?_, Fin.ext ?_, BitVec.eq_of_toNat_eq ?_⟩ <;> simp only [fieldD_val, fieldQ_toNat, encRdq]
  case refine_5 =>
    conv_rhs => rw [digits]
    generalize q.toNat / 32 = q5, q.toNat / 8 % 4 = q4, q.toNat % 8 = q2 at *
    clear digits
    congr 1
    · congr 1 <;> omega
    · omega
  all_goals
    generalize q.toNat / 32 = q5, q.toNat / 8 % 4 = q4, q.toNat % 8 = q2 at *
    clear digits
    omega

theorem encK22_reads (h : op % 512 = 12 ∨ op % 512 = 14) (k : BitVec 22) : encK22 op k / 512 = op / 512 ∧
    (encK22 op k % 16 = op % 16 ∨ encK22 op k % 16 = op % 16 + 1) ∧
    fieldK22 (encK22 op k) (k.toNat % 65536) = k := by
  have hk := k.isLt
  refine ⟨?_, ?_, BitVec.eq_of_toNat_eq ?_⟩
  case refine_3 => rw [fieldK22_toNat _ (Nat.mod_lt _ (by decide))]; simp only [encK22]; omega
  all_goals simp only [encK22]; omega

/-! One lemma per group of the opcode map (R109 to R111): which words a group decoder reads. -/

theorem decodeNat_eq_decode0 (h : n / 4096 = 0) : decodeNat core n n2 = decode0 n := by
  rw [decodeNat, h]
  rfl

theorem decodeNat_eq_decode1 (h : n / 4096 = 1) : decodeNat core n n2 = decode1 n := by
  rw [decodeNat, h]
  rfl

theorem decodeNat_eq_decode2 (h : n / 4096 = 2) : decodeNat core n n2 = decode2 n := by
  rw [decodeNat, h]
  rfl

theorem decodeNat_eq_decodeDisplacement (h : n / 4096 = 8 ∨ n / 4096 = 10 ∧ core ≠ .rc) :
    decodeNat core n n2 = decodeDisplacement n := by
  rcases h with h | ⟨h, hcore⟩
  · rw [decodeNat, h]
    rfl
  · rw [decodeNat, h]
    exact if_neg hcore

theorem decodeNat_eq_decode16Bit (h : n / 4096 = 10) : decodeNat .rc n n2 = decode16Bit n := by
  rw [decodeNat, h]
  exact if_pos rfl

theorem decodeNat_eq_decode9 (h : n / 4096 = 9) : decodeNat core n n2 = decode9 n n2 := by
  rw [decodeNat, h]
  rfl

theorem decodeNat_eq_decode15 (h : n / 4096 = 15) : decodeNat core n n2 = decode15 n := by
  rw [decodeNat, h]
  rfl

theorem decodeNat_eq_decodeLoad (h : n / 512 = 72) : decodeNat core n n2 = decodeLoad n n2 := by
  rw [decodeNat_eq_decode9 (by omega), decode9]
  obtain h | h : n / 256 % 16 = 0 ∨ n / 256 % 16 = 1 := by omega
  all_goals
    rw [h]
    rfl

theorem decodeNat_eq_decodeStore (h : n / 512 = 73) : decodeNat core n n2 = decodeStore n n2 := by
  rw [decodeNat_eq_decode9 (by omega), decode9]
  obtain h | h : n / 256 % 16 = 2 ∨ n / 256 % 16 = 3 := by omega
  all_goals
    rw [h]
    rfl

theorem decodeNat_eq_decodeOne (h : n / 512 = 74) : decodeNat core n n2 = decodeOne n n2 := by
  rw [decodeNat_eq_decode9 (by omega), decode9]
  obtain h | h : n / 256 % 16 = 4 ∨ n / 256 % 16 = 5 := by omega
  all_goals
    rw [h]
    rfl

/-- The words `0000 0011 xxxx xxxx`: bits 7 and 3 tell the four products of the middle registers apart. -/
theorem decode0_multiply (h : n / 256 = 3) : decode0 n =
    if n / 128 % 2 = 0 then
      if n / 8 % 2 = 0 then some (.mulsu (regOf (16 + n / 16 % 8)) (regOf (16 + n % 8)))
      else some (.fmul (regOf (16 + n / 16 % 8)) (regOf (16 + n % 8)))
    else if n / 8 % 2 = 0 then some (.fmuls (regOf (16 + n / 16 % 8)) (regOf (16 + n % 8)))
    else some (.fmulsu (regOf (16 + n / 16 % 8)) (regOf (16 + n % 8))) := by
  rw [decode0, if_pos (by omega), if_neg (by omega), if_neg (by omega), if_neg (by omega)]

/-- An instruction without operands has one word, which is evaluated. -/
theorem ReadsBack.const {N : Nat} (words : encode i = oneWord N) (lt : N < 65536)
    (h : ∀ core, decodeNat core N 0 = some i) : ReadsBack core i := .of_oneWord words lt (h core)

theorem ReadsBack.jmp {k : BitVec 22} : ReadsBack core (.jmp k) := by
  obtain ⟨top, low, hk⟩ := encK22_reads (op := 0x940C) (.inl rfl) k
  refine .of_twoWords rfl (by omega) (Nat.mod_lt _ (by decide)) ?_
  rw [decodeNat_eq_decodeOne top, decodeOne]
  rcases low with low | low
  all_goals
    rw [low, hk]
    rfl

theorem ReadsBack.call {k : BitVec 22} : ReadsBack core (.call k) := by
  obtain ⟨top, low, hk⟩ := encK22_reads (op := 0x940E) (.inr rfl) k
  refine .of_twoWords rfl (by omega) (Nat.mod_lt _ (by decide)) ?_
  rw [decodeNat_eq_decodeOne top, decodeOne]
  rcases low with low | low
  all_goals
    rw [low, hk]
    rfl

theorem ReadsBack.rdq {mk : RegIx → BitVec 6 → Instr} {store y : Nat} {d : RegIx} {q : BitVec 6}
    (words : encode (mk d q) = oneWord (encRdq (32768 + store * 512 + y * 8) d q)) (hs : store < 2) (hy : y < 2)
    (enc : (decide (core ≠ .rc) || decide (q.toNat < 32)) = true)
    (row : ∀ n, n / 512 % 2 = store → n / 8 % 2 = y → decodeDisplacement n = some (mk (fieldD n) (fieldQ n))) :
    ReadsBack core (mk d q) := by
  obtain ⟨top, bit9, bit3, hd, hq⟩ := encRdq_reads hs hy d q
  have hlt := q.isLt
  rw [Bool.or_eq_true, decide_eq_true_eq, decide_eq_true_eq] at enc
  refine .of_oneWord words (by omega) ?_
  rw [decodeNat_eq_decodeDisplacement, row _ bit9 bit3, hd, hq]
  rcases enc with hcore | hq32
  · rcases (by omega : q.toNat / 32 = 0 ∨ q.toNat / 32 = 1) with h5 | h5
    · exact .inl (by omega)
    · exact .inr ⟨by omega, hcore⟩
  · exact .inl (by omega)

/-- The decoder reads every instruction that is its own canonical form from its words. -/
theorem readsBack_of_canonical (canon : i.canonical = i) (wf : i.wellFormed = true) (enc : i.encodableOn core = true) :
    ReadsBack core i := by
  cases i with
  | add d r | sbc d r | cpc d r =>
    exact .rdRr rfl rfl (by decide) fun n h => by
      rw [decodeNat_eq_decode0 (by omega), decode0]; simp [h]
  | cpse d r | cp d r | sub d r | adc d r =>
    exact .rdRr rfl rfl (by decide) fun n h => by
      rw [decodeNat_eq_decode1 (by omega), decode1]; simp [h]
  | and d r | eor d r | or d r | mov d r =>
    exact .rdRr rfl rfl (by decide) fun n h => by
      rw [decodeNat_eq_decode2 (by omega), decode2]; simp [h]
  | mul d r =>
    exact .rdRr rfl rfl (by decide) fun n h => by
      rw [decodeNat_eq_decode9 (by omega), decode9]
      obtain h | h | h | h : n / 256 % 16 = 12 ∨ n / 256 % 16 = 13 ∨ n / 256 % 16 = 14 ∨ n / 256 % 16 = 15 := by
        omega
      all_goals
        rw [h]
        rfl
  | adiw d K =>
    exact .rpK6 rfl rfl (by decide) wf fun n h => by
      rw [decodeNat_eq_decode9 (by omega), decode9, show n / 256 % 16 = 6 by omega]
      rfl
  | sbiw d K =>
    exact .rpK6 rfl rfl (by decide) wf fun n h => by
      rw [decodeNat_eq_decode9 (by omega), decode9, show n / 256 % 16 = 7 by omega]
      rfl
  | subi d K | sbci d K | andi d K | ori d K | cpi d K | ldi d K =>
    exact .rdK8 rfl rfl (by decide) wf fun n h => by
      rw [decodeNat, h]
      rfl
  | muls d r =>
    obtain ⟨hd, hr⟩ := Bool.and_eq_true_iff.1 wf
    obtain ⟨top, hd, hr⟩ := encRd4Rr4_reads (op := 0x0200) rfl hd hr
    refine .of_oneWord rfl (by omega) ?_
    rw [decodeNat_eq_decode0 (by omega), decode0, if_pos (by omega), if_neg (by omega),
      if_neg (by omega), if_pos top, hd, hr]
  | movw d r =>
    obtain ⟨hd, hr⟩ := Bool.and_eq_true_iff.1 wf
    obtain ⟨top, hd, hr⟩ := encRp4Rp4_reads (op := 0x0100) rfl hd hr
    refine .of_oneWord rfl (by omega) ?_
    rw [decodeNat_eq_decode0 (by omega), decode0, if_pos (by omega), if_neg (by omega),
      if_pos top, hd, hr]
  | mulsu d r | fmul d r | fmuls d r | fmulsu d r =>
    exact .rd3Rr3 rfl (by decide) (by decide) wf fun n h bit3 => by
      rw [decodeNat_eq_decode0 (by omega), decode0_multiply (by omega), h, bit3]
      rfl
  | com d | neg d | inc d | dec d | lsr d | ror d | asr d | swap d =>
    exact .rd rfl (by decide) (by decide) fun n top low => by
      rw [decodeNat_eq_decodeOne top, decodeOne, low]
      rfl
  | ldX d | ldXInc d | ldXDec d | ldYInc d | ldYDec d | ldZInc d | ldZDec d | lpm d | lpmZInc d | elpm d | elpmZInc d
  | pop d =>
    exact .rd rfl (by decide) (by decide) fun n top low => by
      rw [decodeNat_eq_decodeLoad top, decodeLoad, low]
      rfl
  | stX d | stXInc d | stXDec d | stYInc d | stYDec d | stZInc d | stZDec d | push d | xch d | las d | lac d | lat d =>
    exact .rd rfl (by decide) (by decide) fun n top low => by
      rw [decodeNat_eq_decodeStore top, decodeStore, low]
      rfl
  | lds d k =>
    obtain ⟨top, low, hd⟩ := encRd_reads (op := 0x9000) (by decide) d
    refine .of_twoWords rfl (by omega) k.isLt ?_
    rw [decodeNat_eq_decodeLoad top, decodeLoad, low, hd, BitVec.ofNat_toNat, BitVec.setWidth_eq]
    rfl
  | sts k r =>
    obtain ⟨top, low, hd⟩ := encRd_reads (op := 0x9200) (by decide) r
    refine .of_twoWords rfl (by omega) k.isLt ?_
    rw [decodeNat_eq_decodeStore top, decodeStore, low, hd, BitVec.ofNat_toNat, BitVec.setWidth_eq]
    rfl
  | lds16 d k =>
    obtain rfl : core = .rc := of_decide_eq_true enc
    obtain ⟨top, hd, hk⟩ := encRdk7_reads (op := 0xA000) rfl wf k
    refine .of_oneWord rfl (by omega) ?_
    rw [decodeNat_eq_decode16Bit (by omega), decode16Bit, top, hd, hk]
    rfl
  | sts16 k r =>
    obtain rfl : core = .rc := of_decide_eq_true enc
    obtain ⟨top, hd, hk⟩ := encRdk7_reads (op := 0xA800) rfl wf k
    refine .of_oneWord rfl (by omega) ?_
    rw [decodeNat_eq_decode16Bit (by omega), decode16Bit, top, hd, hk]
    rfl
  | lddY d q =>
    exact .rdq (store := 0) (y := 1) rfl (by decide) (by decide) enc fun n bit9 bit3 => by
      simp [decodeDisplacement, bit9, bit3]
  | lddZ d q =>
    exact .rdq (store := 0) (y := 0) rfl (by decide) (by decide) enc fun n bit9 bit3 => by
      simp [decodeDisplacement, bit9, bit3]
  | stdY q d =>
    exact .rdq (mk := fun d q => .stdY q d) (store := 1) (y := 1) rfl (by decide) (by decide) enc fun n bit9 bit3 => by
      simp [decodeDisplacement, bit9, bit3]
  | stdZ q d =>
    exact .rdq (mk := fun d q => .stdZ q d) (store := 1) (y := 0) rfl (by decide) (by decide) enc fun n bit9 bit3 => by
      simp [decodeDisplacement, bit9, bit3]
  | des K =>
    have hK := K.isLt
    refine .of_oneWord rfl (by omega) ?_
    rw [decodeNat_eq_decodeOne (by omega), decodeOne, show (0x940B + K.toNat * 16) % 16 = 11 by omega]
    refine (if_pos (by omega)).trans ?_
    rw [show (0x940B + K.toNat * 16) / 16 % 16 = K.toNat by omega, BitVec.ofNat_toNat, BitVec.setWidth_eq]
  | rjmp k =>
    have hk := k.isLt
    refine .of_oneWord rfl (by omega) ?_
    rw [decodeNat, show (0xC000 + k.toNat) / 4096 = 12 by omega]
    exact congrArg (some ∘ Instr.rjmp) (BitVec.eq_of_toNat_eq (by rw [fieldK12_toNat]; omega))
  | rcall k =>
    have hk := k.isLt
    refine .of_oneWord rfl (by omega) ?_
    rw [decodeNat, show (0xD000 + k.toNat) / 4096 = 13 by omega]
    exact congrArg (some ∘ Instr.rcall) (BitVec.eq_of_toNat_eq (by rw [fieldK12_toNat]; omega))
  | jmp k => exact .jmp
  | call k => exact .call
  | sbrc d b | sbrs d b | bst d b | bld d b =>
    exact .rb rfl rfl (by decide) fun n h h3 => by
      rw [decodeNat_eq_decode15 (by omega), decode15, if_neg (by omega), if_neg (by omega), if_neg (by omega)]
      simp [h]
  | brbs s k | brbc s k =>
    exact .sk7 rfl rfl (by decide) fun n h => by rw [decodeNat_eq_decode15 (by omega), decode15]; simp [h]
  | cbi A b | sbic A b | sbi A b | sbis A b =>
    exact .a5b rfl rfl (by decide) fun n h => by
      rw [decodeNat_eq_decode9 (by omega), decode9, h]
      rfl
  | bset s =>
    exact .s rfl (by decide) (by decide) fun n h low => by
      rw [decodeNat_eq_decodeOne (by omega), decodeOne, low]
      exact (if_pos (by omega)).trans (if_pos (by omega))
  | bclr s =>
    exact .s rfl (by decide) (by decide) fun n h low => by
      rw [decodeNat_eq_decodeOne (by omega), decodeOne, low]
      exact (if_pos (by omega)).trans (if_neg (by omega))
  | inp d A =>
    obtain ⟨top, hd, hA⟩ := encRdA6_reads (op := 0xB000) rfl d A
    refine .of_oneWord rfl (by omega) ?_
    rw [decodeNat, show encRdA6 0xB000 d A / 4096 = 11 by omega, hd, hA]
    exact if_pos (by omega)
  | out A d =>
    obtain ⟨top, hd, hA⟩ := encRdA6_reads (op := 0xB800) rfl d A
    refine .of_oneWord rfl (by omega) ?_
    rw [decodeNat, show encRdA6 0xB800 d A / 4096 = 11 by omega, hd, hA]
    exact if_neg (by omega)
  | ijmp | eijmp | icall | eicall | ret | reti | sleep | brk | wdr | lpmR0 | elpmR0 | spm | spmZInc | nop =>
    exact .const rfl (by decide) fun _ => rfl
  | _ => cases canon

/-! ### Bytes and canonical forms -/

theorem wordOf_halves (w : Word) : wordOf (w.extractLsb' 0 8) (w.extractLsb' 8 8) = w := by
  refine BitVec.eq_of_toNat_eq ?_
  rw [wordOf, append_toNat, Word.extract_low, Word.extract_high]
  omega

/-- Whether a word is an instruction does not depend on the word after it. -/
theorem decode_isSome_congr (core : Core) (w a b : Word) : (decode core w a).isSome = (decode core w b).isSome := by
  simpa only [Option.isSome_map] using congrArg Option.isSome (decode_admits core Config.reference w a b)

theorem decodeBytes_oneWord {w : Word} (h : decode core w 0 = some i) (one : isTwoWord w = false) (rest : List Byte) :
    decodeBytes core (w.extractLsb' 0 8 :: w.extractLsb' 8 8 :: rest) = .instr i rest := by
  simp only [decodeBytes, wordOf_halves, h, one, Bool.false_eq_true, if_false]

theorem decodeBytes_twoWords {w w2 : Word} (h : decode core w w2 = some i) (two : isTwoWord w = true)
    (rest : List Byte) : decodeBytes core
      (w.extractLsb' 0 8 :: w.extractLsb' 8 8 :: w2.extractLsb' 0 8 :: w2.extractLsb' 8 8 :: rest) = .instr i rest := by
  obtain ⟨j, hj⟩ : ∃ j, decode core w 0 = some j := by
    rw [← Option.isSome_iff_exists, decode_isSome_congr core w 0 w2, h]
    rfl
  simp only [decodeBytes, wordOf_halves, hj, h, two, if_true]

/-- The words read back are those encoded, so their number is right by `encodeDecode`. -/
theorem ReadsBack.decodeBytes (h : ReadsBack core i) (rest : List Byte) :
    decodeBytes core (encodeBytes i ++ rest) = .instr i rest := by
  obtain ⟨-, -, -, words⟩ := encodeDecode core (firstWord i) (secondWord i) i h
  cases two : isTwoWord (firstWord i) with
  | true =>
    rw [two, if_pos rfl] at words
    rw [encodeBytes, words]
    exact decodeBytes_twoWords h two rest
  | false =>
    rw [two, if_neg Bool.false_ne_true] at words
    have second : secondWord i = 0 := by rw [secondWord, words]; rfl
    rw [ReadsBack, second] at h
    rw [encodeBytes, words]
    exact decodeBytes_oneWord h two rest

end ReadBack

/-- The canonical form has the words of the instruction, and is well formed where it is (R117). -/
theorem canonicalEncoding (i : Instr) : Laws.CanonicalEncoding.Statement i := by
  cases i with
  | breq k | brne k | brcs k | brcc k | brsh k | brlo k | brmi k | brpl k | brge k | brlt k | brhs k | brhc k | brts k
  | brtc k | brvs k | brvc k | brie k | brid k =>
    exact fun _ => ⟨rfl, congrArg oneWord (Laws.encSk7_flag _ _ k), rfl, rfl⟩
  | ldY d | ldZ d | stY d | stZ d => exact fun _ => ⟨rfl, congrArg oneWord (Laws.encRdq_zero _ d), rfl, rfl⟩
  | _ => exact fun wf => ⟨wf, rfl, rfl, rfl⟩

/-- The canonical form exists on every core that has the encoding. -/
theorem canonical_encodableOn {core : Core} {i : Instr} (h : i.encodableOn core = true) :
    i.canonical.encodableOn core = true := by
  cases i with
  | ldY d | ldZ d | stY d | stZ d => exact Bool.or_true _
  | _ => exact h

/-- Settles O1: an instruction has the words of its canonical form, which are read back. -/
theorem decodeEncode : Obligations.DecodeEncode := by
  intro core i rest wf enc
  obtain ⟨wfCanonical, words, canon, -⟩ := canonicalEncoding i wf
  rw [encodeBytes, ← words]
  exact (readsBack_of_canonical canon wfCanonical (canonical_encodableOn enc)).decodeBytes rest

/-! ### Words written out -/

/-- Settles O4, by evaluation of the opcode map. -/
theorem decodesWrittenWords : Obligations.DecodesWrittenWords := ⟨rfl, rfl, rfl, rfl, rfl, rfl, rfl, rfl, rfl⟩

/-! ### Operand fields (R108) -/

theorem fieldA6_eq_bits (w : Word) : fieldA6 w.toNat = w.extractLsb' 9 2 ++ w.extractLsb' 0 4 := by
  refine BitVec.eq_of_toNat_eq ?_
  rw [fieldA6_toNat, append_toNat, extract_toNat, extract_toNat]
  omega

theorem fieldA5_eq_bits (w : Word) : fieldA5 w.toNat = w.extractLsb' 3 5 := by
  refine BitVec.eq_of_toNat_eq ?_
  rw [fieldA5_toNat, extract_toNat]
  rfl

theorem fieldB_eq_bits (w : Word) : (fieldB w.toNat).val = (w.extractLsb' 0 3).toNat := by
  rw [fieldB_val, extract_toNat]
  omega

theorem fieldS_eq_bits (w : Word) : (fieldS w.toNat).val = (w.extractLsb' 4 3).toNat := by
  rw [fieldS_val, extract_toNat]
  rfl

section OperandFields

variable {core : Core} {w w2 : Word} {i : Instr} {op : Nat} (h : decode core w w2 = some i)
include h

/-- The word read is the first word of the instruction read. -/
theorem firstWord_of_decode : firstWord i = w := by
  obtain ⟨-, -, -, words⟩ := encodeDecode core w w2 i h
  rw [firstWord, words]
  split <;> rfl

theorem toNat_of_decode {n : Nat} (words : encode i = oneWord n) (hn : n < 65536) : w.toNat = n := by
  rw [← firstWord_of_decode h, firstWord, words]
  exact Word.ofNat_toNat hn

theorem rdA6_of_decode {d : RegIx} {A : BitVec 6} (words : encode i = oneWord (encRdA6 op d A)) (hop : op % 2048 = 0)
    (lt : op < 65536) : A = w.extractLsb' 9 2 ++ w.extractLsb' 0 4 := by
  obtain ⟨top, -, hA⟩ := encRdA6_reads hop d A
  rw [← fieldA6_eq_bits, toNat_of_decode h words (by omega), hA]

theorem a5b_of_decode {A : BitVec 5} {b : BitIx} (words : encode i = oneWord (encA5b op A b)) (hop : op % 256 = 0)
    (lt : op < 65536) : A = w.extractLsb' 3 5 ∧ b.val = (w.extractLsb' 0 3).toNat := by
  obtain ⟨top, hA, hb⟩ := encA5b_reads hop A b
  rw [← fieldA5_eq_bits, ← fieldB_eq_bits, toNat_of_decode h words (by omega), hA, hb]
  exact ⟨rfl, rfl⟩

theorem rb_of_decode {d : RegIx} {b : BitIx} (words : encode i = oneWord (encRb op d b)) (hop : op % 512 = 0)
    (lt : op < 65536) : b.val = (w.extractLsb' 0 3).toNat := by
  obtain ⟨top, -, -, hb⟩ := encRb_reads hop d b
  rw [← fieldB_eq_bits, toNat_of_decode h words (by omega), hb]

theorem s_of_decode {n : BitIx} (words : encode i = oneWord (encS op n)) (hop : op % 128 < 16) (lt : op < 65536) :
    n.val = (w.extractLsb' 4 3).toNat := by
  obtain ⟨top, -, hn⟩ := encS_reads hop n
  rw [← fieldS_eq_bits, toNat_of_decode h words (by omega), hn]

theorem sk7_of_decode {n : BitIx} {k : BitVec 7} (words : encode i = oneWord (encSk7 op n k)) (hop : op % 1024 = 0)
    (lt : op < 65536) : n.val = (w.extractLsb' 0 3).toNat := by
  obtain ⟨top, hn, -⟩ := encSk7_reads hop n k
  rw [← fieldB_eq_bits, toNat_of_decode h words (by omega), hn]

end OperandFields

/-! ### The bit an instruction selects -/

theorem progRead_within {s : State} {a : Nat} (h : a ≤ s.cfg.flashEnd) : progRead s a = some (s.progWord a) := if_pos h

theorem progRead_above {s : State} {a : Nat} (h : s.cfg.flashEnd < a) : progRead s a = none :=
  if_neg (Nat.not_le.2 h)

/-- `Skip(cond)` after a read that changed nothing but the private state of the device (R201). -/
theorem skipRule_skipIf (cond : Bool) (s : State) (hidden : Nat) :
    SkipRule cond (skipIf cond (s.setHidden hidden)).outcome s (s.setHidden hidden) := by
  have next : ((s.setHidden hidden).pcPlus 1).toNat = nextWord s := pcPlus_one_toNat s
  refine ⟨fun hc => ?stay, fun hc within => ?skip, fun hc above => ?outside⟩ <;> subst hc <;>
    simp only [skipIf, if_true, Bool.false_eq_true, if_false, next]
  case stay => exact ⟨_, rfl, rfl, pcPlus_advance_one _ _ rfl⟩
  case skip =>
    rw [progRead_within (s := s.setHidden hidden) within]
    refine ⟨_, rfl, rfl, ?_⟩
    change PcPlus s ((s.setHidden hidden).advance (if isTwoWord (s.progWord (nextWord s)) then 3 else 2)) _
    split
    · exact pcPlus_advance_three _ _ rfl
    · exact pcPlus_advance_two _ _ rfl
  case outside =>
    rw [progRead_above (s := s.setHidden hidden) above]
    rfl

/-- The skip of a bit of an I/O location, after the location is read. -/
theorem skipRule_ioRead (cond : Bool) (A : BitVec 6) (s : State) :
    SkipRule cond (skipIf cond (ioRead A s).2).outcome s (ioRead A s).2 := by
  rw [ioRead_snd]
  exact skipRule_skipIf cond s _

theorem getLsbD_putBit (v : Byte) (n : BitIx) (b : Bool) : (putBit v n b).getLsbD n.val = b :=
  (getBit_putBit v n n b).trans (if_pos rfl)

theorem exec_bset_bit (s : State) (n : BitIx) : ∃ t, exec (.bset n) s = .next t ∧ t.sreg.getLsbD n.val = true := by
  refine ⟨_, rfl, ?_⟩
  rw [State.advance_sreg, State.inhibitIf_sreg, State.setSreg_sreg, getLsbD_putBit]

theorem exec_bclr_bit (s : State) (n : BitIx) : ∃ t, exec (.bclr n) s = .next t ∧ t.sreg.getLsbD n.val = false :=
  ⟨_, rfl, getLsbD_putBit s.sreg n false⟩

theorem exec_bst_bit (s : State) (d : RegIx) (b : BitIx) :
    ∃ t, exec (.bst d b) s = .next t ∧ t.flag flagT = (s.reg d).getLsbD b.val :=
  ⟨_, rfl, getLsbD_putBit s.sreg flagT (getBit (s.reg d) b)⟩

theorem exec_bld_bit (s : State) (d : RegIx) (b : BitIx) :
    ∃ t, exec (.bld d b) s = .next t ∧ (t.reg d).getLsbD b.val = s.flag flagT := by
  refine ⟨_, rfl, ?_⟩
  rw [State.advance_reg, State.setReg_reg_self, getLsbD_putBit]

theorem exec_brbs_pc (s : State) (n : BitIx) (k : BitVec 7) :
    ∃ t, exec (.brbs n k) s = .next t ∧ PcPlus s t (if s.sreg.getLsbD n.val then k.toInt + 1 else 1) :=
  have ⟨_, pc⟩ := branchIf_spec s (s.flag n) k
  ⟨_, rfl, pc⟩

theorem exec_brbc_pc (s : State) (n : BitIx) (k : BitVec 7) :
    ∃ t, exec (.brbc n k) s = .next t ∧ PcPlus s t (if s.sreg.getLsbD n.val then 1 else k.toInt + 1) := by
  obtain ⟨-, pc⟩ := branchIf_spec s (!s.flag n) k
  refine ⟨_, rfl, ?_⟩
  change PcPlus s _ (if s.flag n then _ else _)
  cases hf : s.flag n <;> rw [hf] at pc <;> exact pc

/-! ### SBI and CBI -/

/-- The effect of SBI (`v` true) and of CBI. -/
def putIoBit (v : Bool) (A : BitVec 5) (b : BitIx) (s : State) : State :=
  if v then setIoBit A b s else clearIoBit A b s

theorem exec_sbi_cbi (v : Bool) (A : BitVec 5) (b : BitIx) (s : State) :
    exec (if v then .sbi A b else .cbi A b) s = .next ((putIoBit v A b s).advance 1) := by
  cases v <;> rfl

section PutIoBit

variable {A : BitVec 5} {s : State} (v : Bool) (b : BitIx)

theorem putIoBit_cpu {r : CpuReg} (hr : cpuRegAt s.cfg (lowIo A) = some r) :
    putIoBit v A b s = s.setCpuReg r (putBit (s.cpuReg r) b v) := by
  cases v <;> simp only [putIoBit, setIoBit, clearIoBit, hr, Bool.false_eq_true, if_true, if_false]

theorem putIoBit_reference (hr : cpuRegAt s.cfg (lowIo A) = none) (href : s.cfg.device = .reference) :
    putIoBit v A b s = s.setDeviceByte (.io (lowIo A)) (putBit (s.deviceByte (.io (lowIo A))) b v) := by
  cases v <;>
    simp only [putIoBit, setIoBit, clearIoBit, devSetBit, devClrBit, hr, href, Bool.false_eq_true, if_true, if_false]

theorem putIoBit_external (hr : cpuRegAt s.cfg (lowIo A) = none) (hext : s.cfg.device = .external) :
    (putIoBit v A b s).dev.hidden =
      if v then Config.deviceSetBit A b s.dev.hidden else Config.deviceClrBit A b s.dev.hidden := by
  cases v <;>
    simp only [putIoBit, setIoBit, clearIoBit, devSetBit, devClrBit, hr, hext, Bool.false_eq_true, if_true, if_false,
      State.setHidden]

/-- The byte at an I/O location does not depend on the PC. -/
theorem ioRead_advance (A : BitVec 6) (s : State) (n : ProgAddr) : (ioRead A (s.advance n)).1 = (ioRead A s).1 := by
  cases hr : cpuRegAt s.cfg A with
  | some r =>
    rw [ioRead_cpu hr, ioRead_cpu (s := s.advance n) hr]
    cases r <;> rfl
  | none =>
    rw [ioRead_device hr, ioRead_device (s := s.advance n) hr]
    unfold devRead
    rw [State.advance_cfg]
    cases s.cfg.device <;> rfl

theorem setCpuReg_cfg (s : State) (r : CpuReg) (x : Byte) : (s.setCpuReg r x).cfg = s.cfg := by rw [State.setCpuReg_eq]

/-- The bit written reads back where the location stores what is written. -/
theorem ioRead_putIoBit (hstores : s.cfg.device = .reference ∨ ∃ r, cpuRegAt s.cfg (lowIo A) = some r) :
    (ioRead (lowIo A) (putIoBit v A b s)).1.getLsbD b.val = v := by
  cases hr : cpuRegAt s.cfg (lowIo A) with
  | some r =>
    have exists_r := cpuRegAt_exists hr
    rw [putIoBit_cpu v b hr, ioRead_cpu ((congrArg (cpuRegAt · (lowIo A)) (setCpuReg_cfg s r _)).trans hr),
      State.setCpuReg_cpuReg s r r _ exists_r exists_r, if_pos rfl, getLsbD_putBit]
  | none =>
    have href : s.cfg.device = .reference := hstores.resolve_right (by rw [hr]; rintro ⟨r, ⟨⟩⟩)
    rw [putIoBit_reference v b hr href, ioRead_device (by rwa [State.setDeviceByte_cfg]),
      devRead_reference (by rwa [State.setDeviceByte_cfg]), State.setDeviceByte_deviceByte, if_pos rfl, getLsbD_putBit]

end PutIoBit

/-- Settles O5: the fields of the word read are the operands, and the operands select the bits. -/
theorem operandFields : Obligations.OperandFields := by
  intro core w w2 i h
  have io : ∀ A b, i = .sbi A b ∨ i = .cbi A b ∨ i = .sbic A b ∨ i = .sbis A b →
      A = w.extractLsb' 3 5 ∧ b.val = (w.extractLsb' 0 3).toNat := by
    rintro A b (rfl | rfl | rfl | rfl)
    all_goals exact a5b_of_decode h rfl rfl (by decide)
  have reg : ∀ d b, i = .bst d b ∨ i = .bld d b ∨ i = .sbrc d b ∨ i = .sbrs d b →
      b.val = (w.extractLsb' 0 3).toNat := by
    rintro d b (rfl | rfl | rfl | rfl)
    all_goals exact rb_of_decode h rfl rfl (by decide)
  have flag : ∀ n, i = .bset n ∨ i = .bclr n → n.val = (w.extractLsb' 4 3).toNat := by
    rintro n (rfl | rfl)
    all_goals exact s_of_decode h rfl (by decide) (by decide)
  have branch : ∀ n k, i = .brbs n k ∨ i = .brbc n k → n.val = (w.extractLsb' 0 3).toNat := by
    rintro n k (rfl | rfl)
    all_goals exact sk7_of_decode h rfl rfl (by decide)
  refine ⟨?inOut, io, reg, flag, branch, ?bset, ?brbs, ?bst, ?sbis, ?bclr, ?brbc, ?bld, ?sbrc, ?sbrs, ?sbic, ?sbi⟩
  case inOut =>
    rintro d A (rfl | rfl)
    all_goals exact rdA6_of_decode h rfl rfl (by decide)
  case bset =>
    rintro s n rfl
    rw [← flag n (.inl rfl)]
    exact exec_bset_bit s n
  case bclr =>
    rintro s n rfl
    rw [← flag n (.inr rfl)]
    exact exec_bclr_bit s n
  case brbs =>
    rintro s n k rfl
    rw [← branch n k (.inl rfl)]
    exact exec_brbs_pc s n k
  case brbc =>
    rintro s n k rfl
    rw [← branch n k (.inr rfl)]
    exact exec_brbc_pc s n k
  case bst =>
    rintro s d b rfl
    rw [← reg d b (.inl rfl)]
    exact exec_bst_bit s d b
  case bld =>
    rintro s d b rfl
    rw [← reg d b (.inr (.inl rfl))]
    exact exec_bld_bit s d b
  case sbrc =>
    rintro s r b rfl
    rw [← reg r b (.inr (.inr (.inl rfl)))]
    exact skipRule_skipIf _ s s.dev.hidden
  case sbrs =>
    rintro s r b rfl
    rw [← reg r b (.inr (.inr (.inr rfl)))]
    exact skipRule_skipIf _ s s.dev.hidden
  case sbic =>
    rintro s A b rfl
    obtain ⟨hA, hb⟩ := io A b (.inr (.inr (.inl rfl)))
    rw [← hA, ← hb]
    exact skipRule_ioRead _ (lowIo A) s
  case sbis =>
    rintro s A b rfl
    obtain ⟨hA, hb⟩ := io A b (.inr (.inr (.inr rfl)))
    rw [← hA, ← hb]
    exact skipRule_ioRead _ (lowIo A) s
  case sbi =>
    rintro s A b v hi
    obtain ⟨hA, hb⟩ := io A b (by cases v <;> simp [hi])
    rw [hi, ← hA, ← hb, exec_sbi_cbi]
    refine ⟨_, rfl, fun hstores => ?_, fun c hc hext hr => ?_⟩
    · rw [ioRead_advance]
      exact ioRead_putIoBit v b hstores
    · rw [Fin.ext hc]
      exact putIoBit_external v b hr hext

/-! ### Second names (R117) -/

theorem addBytes_self_toNat (x : Byte) (c : Bool) : (addBytes x x c).toNat = (2 * x.toNat + c.toNat) % 256 := by
  rw [addBytes, BitVec.toNat_ofNat, Nat.two_mul]

theorem shiftLeft_one_toNat (x : Byte) : (x <<< 1).toNat = 2 * x.toNat % 256 := by
  rw [BitVec.toNat_shiftLeft, Nat.shiftLeft_eq, Nat.mul_comm]

/-- The bit shifted in stands where the shifted byte has a zero. -/
theorem shiftLeft_and_carry (x : Byte) (c : Bool) : x <<< 1 &&& (BitVec.ofBool c).setWidth 8 = 0#8 := by
  refine BitVec.eq_of_toNat_eq ?_
  cases c with
  | false => exact congrArg BitVec.toNat BitVec.and_zero
  | true =>
    rw [BitVec.toNat_and, shiftLeft_one_toNat]
    change 2 * x.toNat % 256 &&& 1 = 0
    rw [Nat.and_one_is_mod]
    omega

/-- Adding a byte to itself with a carry is shifting it left and shifting the carry in. -/
theorem addBytes_self (x : Byte) (c : Bool) : addBytes x x c = x <<< 1 ||| (BitVec.ofBool c).setWidth 8 := by
  rw [← BitVec.add_eq_or_of_and_eq_zero _ _ (shiftLeft_and_carry x c)]
  refine BitVec.eq_of_toNat_eq ?_
  rw [addBytes_self_toNat, BitVec.toNat_add, shiftLeft_one_toNat]
  cases c
  all_goals simp

/-- The flags of LSL and ROL are those of ADD and ADC of the byte with itself. -/
theorem shiftLeftFlags_eq_addFlags (sreg x : Byte) (c : Bool) :
    shiftLeftFlags sreg x (addBytes x x c) = addFlags sreg x x c := by
  have hx := x.isLt
  have hc := c.toNat_le
  have res := addBytes_self_toNat x c
  have carry : decide (256 ≤ x.toNat + x.toNat + c.toNat) = getBit x 7 := by
    rw [getBit_7]
    exact decide_eq_decide.2 (by omega)
  have half : decide (16 ≤ x.toNat % 16 + x.toNat % 16 + c.toNat) = getBit x 3 := by
    rw [getBit_3]
    exact decide_eq_decide.2 (by omega)
  have overflow : overflows8 (x.toInt + x.toInt + c.toNat) = (getBit (addBytes x x c) 7 ^^ getBit x 7) := by
    rw [overflows8, getBit_7, getBit_7, res, BitVec.toInt_eq_toNat_cond, Bool.eq_iff_iff]
    simp only [decide_eq_true_eq, Bool.xor_iff_ne, ne_eq, decide_eq_decide]
    split <;> omega
  refine eq_of_getBit fun i => ?_
  rw [shiftLeftFlags_bits, shiftFlags_bits, addFlags_bits, carry, half, overflow]
  by_cases hH : i = flagH
  · subst hH
    rfl
  · simp only [if_neg hH]

/-- The ending of LSL and ROL is that of ADD and ADC. -/
theorem State.writeResult_shiftLeft (s : State) (d : RegIx) {c : Bool} {res : Byte}
    (h : addBytes (s.reg d) (s.reg d) c = res) : s.writeResult d res (shiftLeftFlags s.sreg (s.reg d) res) =
      s.writeResult d (addBytes (s.reg d) (s.reg d) c) (addFlags s.sreg (s.reg d) (s.reg d) c) := by
  rw [← h, shiftLeftFlags_eq_addFlags]

/-- A displacement of zero is the pointer itself. -/
theorem ptrDisp_zero (p : Pointer) (s : State) : ptrDisp p 0 s = ptrGet p s := by
  refine BitVec.eq_of_toNat_eq ?_
  rw [ptrDisp_toNat, ptrGet_toNat]
  exact Nat.mod_eq_of_lt (pointer_lt p s)

/-- Settles O6: LSL and ROL add the byte to itself, LD and ST without displacement have displacement zero, and every
other second name is defined as its canonical instruction is. -/
theorem aliasMeansCanonical : Obligations.AliasMeansCanonical := by
  intro i s
  cases i with
  | lsl d =>
    exact congrArg Host.Outcome.next (s.writeResult_shiftLeft d ((addBytes_self (s.reg d) false).trans BitVec.or_zero))
  | rol d => exact congrArg Host.Outcome.next (s.writeResult_shiftLeft d (addBytes_self (s.reg d) (s.flag flagC)))
  | ldY d | ldZ d => exact congrArg (fun a => (loadAt d a 1 s).outcome) (ptrDisp_zero _ s).symm
  | stY d | stZ d => exact congrArg (fun a => (storeAt a (s.reg d) 1 s).outcome) (ptrDisp_zero _ s).symm
  | _ => rfl

end Sys2Proof.Machine

namespace Sys2Proof.Machine

/-! SUPPORT. The statements of 40_arithmetic_logic.md: the flag helpers, addition and subtraction, logic, the one-register
instructions, 16-bit immediates, products, DES. -/

open Sys2Proof

/-! ### Bytes as numbers -/

theorem addBytes_toNat (a b : Byte) (cin : Bool) :
    (addBytes a b cin).toNat = (a.toNat + b.toNat + cin.toNat) % 256 :=
  BitVec.toNat_ofNat _ _

theorem subBytes_toNat (a b : Byte) (cin : Bool) :
    ((subBytes a b cin).toNat : Int) = ((a.toNat : Int) - b.toNat - cin.toNat) % 256 := by
  rw [subBytes, BitVec.toNat_ofInt]
  exact Int.toNat_of_nonneg (Int.emod_nonneg _ (by decide))

/-- The signed reading of a byte. -/
theorem byte_toInt (v : Byte) : v.toInt = if 128 ≤ v.toNat then (v.toNat : Int) - 256 else v.toNat := by
  rw [BitVec.toInt_eq_toNat_cond]
  split <;> split <;> omega

/-! ### `AddFlags` (R140) -/

section AddFormulas

variable (a b : Byte) (cin : Bool)

/-- The carry from bit 3, by the bits of operands and sum. -/
theorem addBytes_halfCarry : decide (16 ≤ a.toNat % 16 + b.toNat % 16 + cin.toNat) =
    ((getBit a 3 && getBit b 3) || (getBit b 3 && !getBit (addBytes a b cin) 3) ||
      (!getBit (addBytes a b cin) 3 && getBit a 3)) := by
  have hc := cin.toNat_le
  simp only [getBit_3, addBytes_toNat, ← decide_not, ← Bool.decide_and, ← Bool.decide_or, decide_eq_decide]
  omega

/-- The carry from bit 7. -/
theorem addBytes_carry : decide (256 ≤ a.toNat + b.toNat + cin.toNat) =
    ((getBit a 7 && getBit b 7) || (getBit b 7 && !getBit (addBytes a b cin) 7) ||
      (!getBit (addBytes a b cin) 7 && getBit a 7)) := by
  have ha := a.isLt; have hb := b.isLt; have hc := cin.toNat_le
  simp only [getBit_7, addBytes_toNat, ← decide_not, ← Bool.decide_and, ← Bool.decide_or, decide_eq_decide]
  omega

/-- The sum leaves the signed range exactly when operands of one sign have a sum of the other. -/
theorem addBytes_overflow : overflows8 (a.toInt + b.toInt + cin.toNat) =
    ((getBit a 7 && getBit b 7 && !getBit (addBytes a b cin) 7) ||
      (!getBit a 7 && !getBit b 7 && getBit (addBytes a b cin) 7)) := by
  have ha := a.isLt; have hb := b.isLt; have hc := cin.toNat_le
  simp only [overflows8, byte_toInt, getBit_7, addBytes_toNat, ← decide_not, ← Bool.decide_and, ← Bool.decide_or,
    decide_eq_decide]
  split <;> split <;> omega

/-- Every flag of `AddFlags` by its formula and by its reading. -/
theorem addRule_addFlags (sreg : Byte) : AddRule a b cin (addBytes a b cin) sreg (addFlags sreg a b cin) := by
  have bits := addFlags_bits sreg a b cin
  exact {
    result := addBytes_toNat a b cin
    half := (bits flagH).trans (addBytes_halfCarry a b cin)
    halfCarry := bits flagH
    overflow := (bits flagV).trans (addBytes_overflow a b cin)
    outside := bits flagV
    negative := bits flagN
    zero := (bits flagZ).trans (allClear_eq _).symm
    isZero := bits flagZ
    carry := (bits flagC).trans (addBytes_carry a b cin)
    carryOut := bits flagC
    sign := (bits flagS).trans (congrArg₂ xor (bits flagN).symm (bits flagV).symm)
    kept := addFlags_kept sreg a b cin }

end AddFormulas

/-- Settles O26: the formulas for H, C and V are those of the carries and the overflow of the sum. -/
theorem addFlagFormulas : Obligations.AddFlagFormulas := addRule_addFlags

/-! ### `SubFlags` (R141) -/

section SubFormulas

variable (a b : Byte) (cin : Bool)

/-- The borrow from bit 3, by the bits of operands and difference. -/
theorem subBytes_halfBorrow : decide (a.toNat % 16 < b.toNat % 16 + cin.toNat) =
    ((!getBit a 3 && getBit b 3) || (getBit b 3 && getBit (subBytes a b cin) 3) ||
      (getBit (subBytes a b cin) 3 && !getBit a 3)) := by
  have hc := cin.toNat_le; have res := subBytes_toNat a b cin
  simp only [getBit_3, ← decide_not, ← Bool.decide_and, ← Bool.decide_or, decide_eq_decide]
  omega

/-- The borrow from bit 7. -/
theorem subBytes_borrow : decide (a.toNat < b.toNat + cin.toNat) =
    ((!getBit a 7 && getBit b 7) || (getBit b 7 && getBit (subBytes a b cin) 7) ||
      (getBit (subBytes a b cin) 7 && !getBit a 7)) := by
  have ha := a.isLt; have hb := b.isLt; have hc := cin.toNat_le; have res := subBytes_toNat a b cin
  simp only [getBit_7, ← decide_not, ← Bool.decide_and, ← Bool.decide_or, decide_eq_decide]
  omega

/-- The difference leaves the signed range exactly when operands of different signs give the sign of the second. -/
theorem subBytes_overflow : overflows8 (a.toInt - b.toInt - cin.toNat) =
    ((getBit a 7 && !getBit b 7 && !getBit (subBytes a b cin) 7) ||
      (!getBit a 7 && getBit b 7 && getBit (subBytes a b cin) 7)) := by
  have ha := a.isLt; have hb := b.isLt; have hc := cin.toNat_le; have res := subBytes_toNat a b cin
  simp only [overflows8, byte_toInt, getBit_7, ← decide_not, ← Bool.decide_and, ← Bool.decide_or, decide_eq_decide]
  split <;> split <;> omega

/-- Every flag of `SubFlags` by its formula and by its reading. -/
theorem subRule_subFlags (keepZ : Bool) (sreg : Byte) :
    SubRule a b cin keepZ (subBytes a b cin) sreg (subFlags sreg a b cin keepZ) := by
  have bits := subFlags_bits sreg a b cin keepZ
  exact {
    result := subBytes_toNat a b cin
    half := (bits flagH).trans (subBytes_halfBorrow a b cin)
    halfBorrow := bits flagH
    overflow := (bits flagV).trans (subBytes_overflow a b cin)
    outside := bits flagV
    negative := bits flagN
    zero := fun fresh => (bits flagZ).trans (by subst fresh; exact Bool.and_true _)
    zeroKept := fun keep => (bits flagZ).trans (by subst keep; rw [allClear_eq]; rfl)
    carry := (bits flagC).trans (subBytes_borrow a b cin)
    borrow := bits flagC
    sign := (bits flagS).trans (congrArg₂ xor (bits flagN).symm (bits flagV).symm)
    kept := subFlags_kept sreg a b cin keepZ }

end SubFormulas

/-- Settles O27: the formulas for H, C and V are those of the borrows and the overflow of the difference. -/
theorem subFlagFormulas : Obligations.SubFlagFormulas := subRule_subFlags

/-! ### `LogicFlags` (R142) -/

theorem logicRule_logicFlags (res sreg : Byte) : LogicRule res sreg (logicFlags sreg res) := by
  have bits := logicFlags_bits sreg res
  have sign : getBit (logicFlags sreg res) flagS = getBit (logicFlags sreg res) flagN :=
    (bits flagS).trans (bits flagN).symm
  have overflow : getBit (logicFlags sreg res) flagV = false := bits flagV
  exact {
    overflow
    negative := bits flagN
    zero := bits flagZ
    sign := by rw [sign, overflow, Bool.xor_false]
    equalsN := sign
    kept := logicFlags_kept sreg res }

/-- Settles O33: COM's C is bit 0 of SREG, set after `LogicFlags`. -/
theorem logicFlagFormulas : Obligations.LogicFlagFormulas := fun res sreg => ⟨logicRule_logicFlags res sreg, rfl⟩

/-! ### The ending of a register instruction -/

theorem State.writeResult_reg_self (s : State) (d : RegIx) (res sreg : Byte) : (s.writeResult d res sreg).reg d = res :=
  (s.writeResult_reg d res sreg d).trans (if_pos rfl)

theorem pcPlus_writeResult (s : State) (d : RegIx) (res sreg : Byte) : PcPlus s (s.writeResult d res sreg) 1 :=
  pcPlus_advance_one _ _ rfl

section Endings

variable {i : Instr} {s : State} {d : RegIx}

/-- An instruction that ends in a sum and `AddFlags`. -/
theorem exec_addRule {a b : Byte} {cin : Bool}
    (h : exec i s = .next (s.writeResult d (addBytes a b cin) (addFlags s.sreg a b cin))) :
    ∃ t, exec i s = .next t ∧ AddRule a b cin (t.reg d) s.sreg t.sreg ∧ OnlyRegisters s t [d] ∧ PcPlus s t 1 := by
  refine ⟨_, h, ?_, onlyRegisters_writeResult s d _ _, pcPlus_writeResult s d _ _⟩
  rw [State.writeResult_reg_self]
  exact addRule_addFlags a b cin s.sreg

/-- An instruction that ends in a difference and `SubFlags`. -/
theorem exec_subRule {a b : Byte} {cin keepZ : Bool}
    (h : exec i s = .next (s.writeResult d (subBytes a b cin) (subFlags s.sreg a b cin keepZ))) :
    ∃ t, exec i s = .next t ∧ SubRule a b cin keepZ (t.reg d) s.sreg t.sreg ∧ OnlyRegisters s t [d] ∧ PcPlus s t 1 := by
  refine ⟨_, h, ?_, onlyRegisters_writeResult s d _ _, pcPlus_writeResult s d _ _⟩
  rw [State.writeResult_reg_self]
  exact subRule_subFlags a b cin keepZ s.sreg

/-- An instruction that ends in `SubFlags` alone. -/
theorem exec_subRule_discarded {a b : Byte} {cin keepZ : Bool}
    (h : exec i s = .next ((s.setSreg (subFlags s.sreg a b cin keepZ)).advance 1)) :
    ∃ t, exec i s = .next t ∧ SubRule a b cin keepZ (subBytes a b cin) s.sreg t.sreg ∧ OnlySreg s t ∧ PcPlus s t 1 :=
  ⟨_, h, subRule_subFlags a b cin keepZ s.sreg, onlySreg_setSreg s _, pcPlus_advance_one _ _ rfl⟩

/-- An instruction that ends in a result known by its bits and `LogicFlags`. -/
theorem exec_logicRule {res : Byte} {f : BitIx → Bool} (hbits : ∀ b, getBit res b = f b)
    (h : exec i s = .next (s.writeResult d res (logicFlags s.sreg res))) :
    ∃ t, exec i s = .next t ∧ (∀ b, getBit (t.reg d) b = f b) ∧ LogicRule (t.reg d) s.sreg t.sreg ∧
      OnlyRegisters s t [d] ∧ PcPlus s t 1 := by
  refine ⟨_, h, ?_, ?_, onlyRegisters_writeResult s d _ _, pcPlus_writeResult s d _ _⟩
  all_goals rw [State.writeResult_reg_self]
  · exact hbits
  · exact logicRule_logicFlags res s.sreg

end Endings

/-- Settles O28: both end in the sum and `AddFlags`. -/
theorem addResults : Obligations.AddResults := fun _ _ _ => ⟨exec_addRule rfl, exec_addRule rfl⟩

/-- Settles O29: all four end in the difference and `SubFlags`. -/
theorem subResults : Obligations.SubResults := fun _ _ _ _ =>
  ⟨exec_subRule rfl, exec_subRule rfl, exec_subRule rfl, exec_subRule rfl⟩

/-! ### What the flags of a difference say (R172 (c), (d)) -/

section Orders

variable {a b res old new : Byte} (h : SubRule a b false false res old new)
include h

/-- Z: the operands are equal. -/
theorem SubRule.equal : getBit new flagZ = true ↔ a = b := by
  have ha := a.isLt; have hb := b.isLt; have result := h.result
  rw [h.zero rfl, decide_eq_true_eq, ← BitVec.toNat_inj, ← BitVec.toNat_inj]
  simp only [Bool.toNat_false] at result
  change res.toNat = 0 ↔ _
  omega

/-- C: the first operand is lower. -/
theorem SubRule.lower : getBit new flagC = true ↔ a.toNat < b.toNat := by
  rw [h.borrow, decide_eq_true_eq]
  rfl

/-- S: the first operand is less as a signed number, whether the difference overflows or not. -/
theorem SubRule.less : getBit new flagS = true ↔ a.toInt < b.toInt := by
  have ha := a.isLt; have hb := b.isLt; have result := h.result
  rw [h.sign, h.negative, h.outside, getBit_7, Bool.xor_iff_ne, ne_eq, decide_eq_decide, byte_toInt, byte_toInt]
  simp only [Bool.toNat_false] at result ⊢
  split <;> split <;> omega

/-- What a branch on one of these flags then does. -/
theorem SubRule.branches {t : State} (hnew : t.sreg = new) (k : BitVec 7) :
    ∃ u v w, exec (.breq k) t = .next u ∧ PcPlus t u (if a = b then k.toInt + 1 else 1) ∧
      exec (.brlo k) t = .next v ∧ PcPlus t v (if a.toNat < b.toNat then k.toInt + 1 else 1) ∧
      exec (.brlt k) t = .next w ∧ PcPlus t w (if a.toInt < b.toInt then k.toInt + 1 else 1) := by
  subst hnew
  obtain ⟨-, equal⟩ := branchIf_spec t (t.flag flagZ) k
  obtain ⟨-, lower⟩ := branchIf_spec t (t.flag flagC) k
  obtain ⟨-, less⟩ := branchIf_spec t (t.flag flagS) k
  simp only [State.flag, h.equal] at equal
  simp only [State.flag, h.lower] at lower
  simp only [State.flag, h.less] at less
  exact ⟨_, _, _, rfl, equal, rfl, lower, rfl, less⟩

end Orders

/-- Every one of the four instructions writes the flags of the difference of Rd and the operand. -/
theorem exec_compare {i : Instr} {s : State} {d : RegIx} {x : Byte}
    (hi : (∃ r, x = s.reg r ∧ (i = .cp d r ∨ i = .sub d r)) ∨ i = .cpi d x ∨ i = .subi d x) :
    ∃ t res, exec i s = .next t ∧ SubRule (s.reg d) x false false res s.sreg t.sreg := by
  rcases hi with ⟨r, rfl, rfl | rfl⟩ | rfl | rfl
  all_goals exact ⟨_, _, rfl, subRule_subFlags _ _ _ _ _⟩

/-- Settles O31: the flags of the difference order the operands, and the branches test them. -/
theorem compareOrders : Obligations.CompareOrders := by
  intro i s d x hi
  obtain ⟨t, res, ht, rule⟩ := exec_compare hi
  exact ⟨t, ht, rule.equal, rule.lower, rule.less, rule.branches rfl⟩

/-- A difference of low bytes, then of high bytes with its borrow and the kept Z, as one of 16 bits. -/
theorem SubRule.word {x0 y0 x1 y1 r0 r1 f0 f1 f2 : Byte} {a b : Nat} (ha : a = x1.toNat * 256 + x0.toNat)
    (hb : b = y1.toNat * 256 + y0.toNat) (low : SubRule x0 y0 false false r0 f0 f1)
    (high : SubRule x1 y1 (getBit f1 flagC) true r1 f1 f2) :
    ((r1.toNat * 256 + r0.toNat : Nat) : Int) = ((a : Int) - b) % 65536 ∧
      getBit f2 flagZ = decide (a = b) ∧ getBit f2 flagC = decide (a < b) := by
  have hx0 := x0.isLt; have hy0 := y0.isLt; have hx1 := x1.isLt; have hy1 := y1.isLt
  have result0 := low.result
  have result1 := high.result
  have borrow : (getBit f1 flagC).toNat = if x0.toNat < y0.toNat then 1 else 0 := by
    rw [low.borrow, Bool.toNat, Bool.cond_decide]
    rfl
  have zero : ∀ r : Byte, decide (r = 0) = decide (r.toNat = 0) := fun r => decide_eq_decide.2 BitVec.toNat_inj.symm
  rw [high.zeroKept rfl, allClear_eq, low.zero rfl, high.borrow, zero, zero, ← Bool.decide_and,
    decide_eq_decide, decide_eq_decide]
  simp only [Bool.toNat_false] at result0
  split at borrow <;> omega

/-- Settles O32: the second instruction sees the operands, the borrow and the Z that the first one left. -/
theorem wordSubtraction : Obligations.WordSubtraction := by
  intro d d' r r' s a b ha hb
  refine ⟨fun hd hr => ?subtract, ?compare⟩
  case subtract =>
    obtain ⟨t, ht, low, frame, -⟩ := exec_subRule (i := .sub d r) (s := s) (d := d) rfl
    obtain ⟨u, hu, high, frame', -⟩ := exec_subRule (i := .sbc d' r') (s := t) (d := d') rfl
    rw [frame.regs d' (by simpa using hd), frame.regs r' (by simpa using hr)] at high
    refine ⟨t, u, ht, hu, ?_⟩
    rw [frame'.regs d (by simpa using hd.symm)]
    exact SubRule.word ha hb low high
  case compare =>
    obtain ⟨t, ht, low, frame, -⟩ := exec_subRule_discarded (i := .cp d r) (s := s) rfl
    obtain ⟨u, hu, high, frame', -⟩ := exec_subRule_discarded (i := .cpc d' r') (s := t) rfl
    simp only [frame.regs] at high
    obtain ⟨-, zero, carry⟩ := SubRule.word ha hb low high
    exact ⟨t, u, ht, hu, zero, carry, State.regs_ext fun j => (frame'.regs j).trans (frame.regs j)⟩

/-! ### Logic -/

theorem State.setReg_reg_eq (s : State) (d : RegIx) : s.setReg d (s.reg d) = s := by
  rw [State.setReg, State.reg_eq, Vector.set_getElem_self]

/-- The complement of a byte as the spec writes it. -/
theorem ff_sub_eq_not (v : Byte) : 0xFF - v = ~~~v := BitVec.allOnes_sub_eq_not v

/-- TST writes back what it read. -/
theorem exec_tst (s : State) (d : RegIx) :
    exec (.tst d) s = .next ((s.setSreg (logicFlags s.sreg (s.reg d))).advance 1) := by
  have same : s.reg d &&& s.reg d = s.reg d := BitVec.and_self
  change Host.Outcome.next (s.writeResult d (s.reg d &&& s.reg d) (logicFlags s.sreg (s.reg d &&& s.reg d))) = _
  rw [same]
  exact congrArg (fun u : State => Host.Outcome.next (u.advance 1)) (State.setReg_reg_eq (s.setSreg _) d)

/-- CLR writes zero. -/
theorem exec_clr (s : State) (d : RegIx) :
    exec (.clr d) s = .next (s.writeResult d 0x00 (logicFlags s.sreg 0x00)) := by
  have zero : s.reg d ^^^ s.reg d = 0x00 := BitVec.xor_self
  change Host.Outcome.next (s.writeResult d (s.reg d ^^^ s.reg d) (logicFlags s.sreg (s.reg d ^^^ s.reg d))) = _
  rw [zero]

/-- Settles O34: the results bit by bit; TST writes no register, CLR writes zero. -/
theorem logicResults : Obligations.LogicResults := by
  intro d r K s
  refine ⟨exec_logicRule (getBit_and _ _) rfl, exec_logicRule (getBit_and _ _) rfl, exec_logicRule (getBit_or _ _) rfl,
    exec_logicRule (getBit_or _ _) rfl, exec_logicRule (getBit_xor _ _) rfl, exec_logicRule (getBit_or _ _) rfl,
    exec_logicRule (fun b => ?cbr) rfl, ?tst, ?clr⟩
  case cbr => rw [ff_sub_eq_not, getBit_and, getBit_not]
  case tst =>
    exact ⟨_, exec_tst s d, logicRule_logicFlags _ _, onlySreg_setSreg s _, pcPlus_advance_one _ _ rfl⟩
  case clr =>
    have rule := logicRule_logicFlags 0x00 s.sreg
    exact ⟨_, exec_clr s d, s.writeResult_reg_self d _ _, rule.zero, rule, onlyRegisters_writeResult s d _ _,
      pcPlus_writeResult s d _ _⟩

/-! ### COM, NEG, INC and DEC -/

/-- The flags of a subtraction from zero (R157). -/
theorem SubRule.negated {v res old new : Byte} (h : SubRule 0 v false false res old new) :
    res.toNat = (256 - v.toNat) % 256 ∧ getBit new flagH = (getBit res 3 || getBit v 3) ∧
      getBit new flagV = decide (res = 0x80) ∧ getBit new flagC = decide (res ≠ 0) := by
  have hv := v.isLt; have result := h.result
  have zero : (0 : Byte).toNat = 0 := rfl
  rw [h.half, h.outside, h.borrow, byte_toInt, byte_toInt]
  simp only [zero, Bool.toNat_false] at result ⊢
  have number : res.toNat = (256 - v.toNat) % 256 := by omega
  refine ⟨number, ?half, ?overflow, ?carry⟩
  case half =>
    have bit : getBit (0 : Byte) 3 = false := rfl
    rw [bit]
    cases getBit v 3 <;> cases getBit res 3 <;> rfl
  case overflow =>
    rw [decide_eq_decide, ← BitVec.toNat_inj, number]
    change _ ↔ _ = 128
    split <;> omega
  case carry =>
    rw [decide_eq_decide, ne_eq, ← BitVec.toNat_inj, number]
    change _ ↔ ¬ _ = 0
    omega

theorem com_toNat (v : Byte) : (0xFF - v).toNat = 255 - v.toNat := by
  rw [ff_sub_eq_not, BitVec.toNat_not]

theorem inc_toNat (v : Byte) : (v + 1).toNat = (v.toNat + 1) % 256 := BitVec.toNat_add v 1

theorem dec_toNat (v : Byte) : (v - 1).toNat = (v.toNat + 255) % 256 := by
  rw [BitVec.toNat_sub, Nat.add_comm]
  rfl

/-- INC gives 0x80 from 0x7F only. -/
theorem inc_eq_80 (v : Byte) : v + 1 = 0x80 ↔ v = 0x7F := eq_sub_iff_add_eq.symm

/-- DEC gives 0x7F from 0x80 only. -/
theorem dec_eq_7F (v : Byte) : v - 1 = 0x7F ↔ v = 0x80 := sub_eq_iff_eq_add

/-- Settles O35: COM by the bits of its flags, NEG as the subtraction from zero, INC and DEC by the one operand whose
result overflows. -/
theorem oneRegisterResults : Obligations.OneRegisterResults := by
  intro d s
  refine ⟨?com, ?neg, ?inc, ?dec⟩
  case com =>
    have bits := comFlags_bits s.sreg (0xFF - s.reg d)
    have logic := logicRule_logicFlags (0xFF - s.reg d) s.sreg
    refine ⟨s.writeResult d (0xFF - s.reg d) (comFlags s.sreg (0xFF - s.reg d)), rfl, ?_⟩
    rw [State.writeResult_reg_self]
    exact ⟨com_toNat _, bits flagC, (bits flagV).trans logic.overflow, (bits flagN).trans logic.negative,
      (bits flagZ).trans logic.zero,
      (bits flagS).trans (logic.sign.trans (congrArg₂ xor (bits flagN).symm (bits flagV).symm)),
      comFlags_kept _ _, onlyRegisters_writeResult s d _ _, pcPlus_writeResult s d _ _⟩
  case neg =>
    obtain ⟨t, ht, rule, frame, next⟩ := exec_subRule (i := .neg d) (s := s) (d := d) rfl
    obtain ⟨number, half, overflow, carry⟩ := rule.negated
    exact ⟨t, ht, number, half, overflow, rule.negative, rule.zero rfl, carry, rule.sign, rule.kept, frame, next⟩
  case inc =>
    have bits := incFlags_bits s.sreg (s.reg d + 1)
    refine ⟨s.writeResult d (s.reg d + 1) (incFlags s.sreg (s.reg d + 1)), rfl, ?_⟩
    rw [State.writeResult_reg_self]
    exact ⟨inc_toNat _, (bits flagV).trans (decide_eq_decide.2 (inc_eq_80 _)), bits flagN, bits flagZ,
      (bits flagS).trans (congrArg₂ xor (bits flagN).symm (bits flagV).symm),
      incFlags_kept _ _, onlyRegisters_writeResult s d _ _, pcPlus_writeResult s d _ _⟩
  case dec =>
    have bits := decFlags_bits s.sreg (s.reg d - 1)
    refine ⟨s.writeResult d (s.reg d - 1) (decFlags s.sreg (s.reg d - 1)), rfl, ?_⟩
    rw [State.writeResult_reg_self]
    exact ⟨dec_toNat _, (bits flagV).trans (decide_eq_decide.2 (dec_eq_7F _)), bits flagN, bits flagZ,
      (bits flagS).trans (congrArg₂ xor (bits flagN).symm (bits flagV).symm),
      decFlags_kept _ _, onlyRegisters_writeResult s d _ _, pcPlus_writeResult s d _ _⟩

/-! ### ADIW and SBIW (R145, R150) -/

theorem word_msb (v : Word) : v.msb = decide (32768 ≤ v.toNat) := BitVec.msb_eq_decide v

/-- Bit 7 of the high byte is bit 15 of the word. -/
theorem getBit_high (v : Word) : getBit (v.extractLsb' 8 8) 7 = v.msb := by
  have hv := v.isLt
  rw [getBit_7, Word.extract_high, word_msb, decide_eq_decide]
  omega

theorem State.pair_msb (s : State) (i : RegIx) : (s.pair i).msb = getBit (s.reg (i + 1)) 7 := by
  rw [getBit_7, word_msb, State.pair_toNat, decide_eq_decide]
  have := (s.reg i).isLt
  omega

/-- The pair that the instruction leaves is the result. -/
theorem pairResult_toNat (s : State) (d : RegIx) (res : Word) (sreg : Byte) :
    ((((s.setSreg sreg).setPair d res).advance 1).reg (d + 1)).toNat * 256 +
      ((((s.setSreg sreg).setPair d res).advance 1).reg d).toNat = res.toNat :=
  State.setPair_toNat (s.setSreg sreg) d res

theorem pairResult_bit15 (s : State) (d : RegIx) (res : Word) (sreg : Byte) :
    getBit ((((s.setSreg sreg).setPair d res).advance 1).reg (d + 1)) 7 = res.msb := by
  rw [State.advance_reg, State.setPair_reg, if_pos rfl, getBit_high]

/-- The flags of the 16-bit result. -/
theorem wordFlags_of_bits {old new : Byte} {res : Word} (negative : getBit new flagN = res.msb)
    (zero : getBit new flagZ = decide (res = 0)) (sign : getBit new flagS = (getBit new flagN ^^ getBit new flagV))
    (kept : FlagsKept [flagS, flagV, flagN, flagZ, flagC] old new) : WordFlags res.toNat old new where
  negative := negative.trans (word_msb res)
  zero := zero.trans (decide_eq_decide.2 BitVec.toNat_inj.symm)
  sign := sign
  kept := kept

theorem wordFlags_adiwFlags (sreg : Byte) (old res : Word) : WordFlags res.toNat sreg (adiwFlags sreg old res) :=
  have bits := adiwFlags_bits sreg old res
  wordFlags_of_bits (bits flagN) (bits flagZ) ((bits flagS).trans (congrArg₂ xor (bits flagN).symm (bits flagV).symm))
    (adiwFlags_kept sreg old res)

theorem wordFlags_sbiwFlags (sreg : Byte) (old res : Word) : WordFlags res.toNat sreg (sbiwFlags sreg old res) :=
  have bits := sbiwFlags_bits sreg old res
  wordFlags_of_bits (bits flagN) (bits flagZ) ((bits flagS).trans (congrArg₂ xor (bits flagN).symm (bits flagV).symm))
    (sbiwFlags_kept sreg old res)

section Immediates

variable (W : Word) (K : BitVec 6)

theorem immediate_toNat : (K.setWidth 16).toNat = K.toNat := BitVec.toNat_setWidth_of_le (by decide)

theorem adiw_toNat : (W + K.setWidth 16).toNat = (W.toNat + K.toNat) % 65536 := by
  rw [BitVec.toNat_add, immediate_toNat]

theorem sbiw_toNat : (W - K.setWidth 16).toNat = (W.toNat + 65536 - K.toNat) % 65536 := by
  have hK := K.isLt
  rw [BitVec.toNat_sub, immediate_toNat]
  omega

/-- A carry out of bit 15 turns a set bit 15 into a clear one, the addend being below 64. -/
theorem adiw_carry : (!(W + K.setWidth 16).msb && W.msb) = decide (65536 ≤ W.toNat + K.toNat) := by
  have hW := W.isLt; have hK := K.isLt
  simp only [word_msb, adiw_toNat, ← decide_not, ← Bool.decide_and, decide_eq_decide]
  omega

/-- A borrow from bit 15 turns a clear bit 15 into a set one. -/
theorem sbiw_borrow : ((W - K.setWidth 16).msb && !W.msb) = decide (W.toNat < K.toNat) := by
  have hW := W.isLt; have hK := K.isLt
  simp only [word_msb, sbiw_toNat, ← decide_not, ← Bool.decide_and, decide_eq_decide]
  omega

end Immediates

/-- Settles O36: the pair after the instruction is the 16-bit result, whose bit 15 is bit 7 of the high register. -/
theorem wordImmediates : Obligations.WordImmediates := by
  intro d K s W hW
  rw [← State.pair_toNat] at hW
  subst hW
  refine ⟨⟨_, rfl, ?adiw⟩, ⟨_, rfl, ?sbiw⟩⟩
  case adiw =>
    have bits := adiwFlags_bits s.sreg (s.pair d) (s.pair d + K.setWidth 16)
    rw [pairResult_toNat, pairResult_bit15, ← State.pair_msb, ← adiw_toNat, ← adiw_carry]
    exact ⟨rfl, bits flagC, bits flagV, bits flagC, wordFlags_adiwFlags _ _ _, onlyRegisters_setPair_sreg s d _ _,
      pcPlus_advance_one _ _ rfl⟩
  case sbiw =>
    have bits := sbiwFlags_bits s.sreg (s.pair d) (s.pair d - K.setWidth 16)
    rw [pairResult_toNat, pairResult_bit15, ← State.pair_msb, ← sbiw_toNat, ← sbiw_borrow]
    exact ⟨rfl, bits flagC, bits flagV, bits flagC, wordFlags_sbiwFlags _ _ _, onlyRegisters_setPair_sreg s d _ _,
      pcPlus_advance_one _ _ rfl⟩

/-! ### Products (R165 to R170) -/

theorem product_toNat (P : Int) : ((BitVec.ofInt 16 P).toNat : Int) = P % 65536 := by
  rw [BitVec.toNat_ofInt]
  exact Int.toNat_of_nonneg (Int.emod_nonneg _ (by decide))

theorem product_shift_toNat (P : Int) (k : Nat) : ((BitVec.ofInt 16 P <<< k).toNat : Int) = P * 2 ^ k % 65536 := by
  rw [BitVec.toNat_shiftLeft, Nat.shiftLeft_eq]
  push_cast
  rw [product_toNat]
  exact (Int.mod_modEq P 65536).mul_right (2 ^ k)

/-- A word is zero when both its bytes are. -/
theorem word_eq_zero_iff (v : Word) : v = 0 ↔ v.extractLsb' 8 8 = 0 ∧ v.extractLsb' 0 8 = 0 := by
  rw [← BitVec.toNat_inj, ← BitVec.toNat_inj, ← BitVec.toNat_inj, Word.extract_high, Word.extract_low]
  change v.toNat = 0 ↔ v.toNat / 256 = 0 ∧ v.toNat % 256 = 0
  omega

/-- An instruction that ends in a product, shifted left or not. -/
theorem exec_productRule {i : Instr} {s : State} {res : Word} (P : Int) (k : Nat) (hres : res = BitVec.ofInt 16 P <<< k)
    (h : exec i s = .next (s.writeProduct res (mulFlags s.sreg (BitVec.ofInt 16 P).msb res))) :
    ∃ t, exec i s = .next t ∧ ProductRule P k s t := by
  have bits := mulFlags_bits s.sreg (BitVec.ofInt 16 P).msb res
  have number := product_toNat P
  refine ⟨_, h, ?result, ?carry, ?zero, ?kept, ?frame, pcPlus_advance_one _ _ rfl⟩
  case result =>
    rw [← product_shift_toNat, ← hres]
    exact congrArg Nat.cast (State.setPair_toNat (s.setSreg _) 0 res)
  case carry =>
    refine (bits flagC).trans ?_
    rw [if_neg (by decide), if_pos rfl, word_msb, decide_eq_decide]
    omega
  case zero =>
    refine (bits flagZ).trans (decide_eq_decide.2 ?_)
    rw [State.writeProduct_reg, State.writeProduct_reg, if_pos rfl, if_neg (by decide), if_pos rfl]
    exact word_eq_zero_iff res
  case kept => exact fun f hf => mulFlags_kept s.sreg _ res f (by simpa [or_comm] using hf)
  case frame => exact onlyRegisters_setPair_sreg s 0 res _

/-- Settles O37: the six products, unshifted for MUL, MULS and MULSU, shifted by one for the fractional ones. -/
theorem products : Obligations.Products := fun _ _ _ =>
  ⟨exec_productRule _ 0 (BitVec.shiftLeft_zero _).symm rfl, exec_productRule _ 0 (BitVec.shiftLeft_zero _).symm rfl,
    exec_productRule _ 0 (BitVec.shiftLeft_zero _).symm rfl, exec_productRule _ 1 rfl rfl,
    exec_productRule _ 1 rfl rfl, exec_productRule _ 1 rfl rfl⟩

/-! ### DES (R171) -/

/-- The registers DES works on. -/
abbrev desRegs : List RegIx := [0, 1, 2, 3, 4, 5, 6, 7, 8, 9, 10, 11, 12, 13, 14, 15]

/-- The data and key blocks. -/
def State.desBlocks (s : State) : BitVec 64 × BitVec 64 := (s.block 0, s.block 8)

/-- Both blocks written, as DES leaves them. -/
def State.setDesBlocks (s : State) (x : BitVec 64 × BitVec 64) : State := (s.setBlock 0 x.1).setBlock 8 x.2

theorem exec_des (K : BitVec 4) (s : State) : exec (.des K) s =
    .next ((s.setDesBlocks (desRound s.desBlocks.1 s.desBlocks.2 K (s.flag flagH))).advance 1) := rfl

/-- The two blocks share no register. -/
theorem data_ne_key (k l : Fin 8) : (0 : RegIx) + Fin.ofNat 32 k.val ≠ 8 + Fin.ofNat 32 l.val := by revert k l; decide

theorem State.desBlocks_setDesBlocks (s : State) (x : BitVec 64 × BitVec 64) : (s.setDesBlocks x).desBlocks = x := by
  rw [State.desBlocks, State.setDesBlocks, State.block_setBlock_other _ _ _ _ data_ne_key, State.block_setBlock,
    State.block_setBlock]

theorem State.desBlocks_advance (s : State) (n : ProgAddr) : (s.advance n).desBlocks = s.desBlocks := rfl

/-- The registers of the data block are R0 to R7, those of the key block R8 to R15. -/
theorem data_reg (k : Fin 8) : (0 : RegIx) + Fin.ofNat 32 k.val = Fin.ofNat 32 k.val := by revert k; decide

theorem key_reg (k : Fin 8) : (8 : RegIx) + Fin.ofNat 32 k.val = Fin.ofNat 32 (8 + k.val) := by revert k; decide

/-- Byte `k` of the data block is in R0 to R7, byte `k` of the key block in R8 to R15. -/
theorem State.data_byte (s : State) (k : Fin 8) :
    (s.reg (Fin.ofNat 32 k.val)).toNat = s.desBlocks.1.toNat / 256 ^ k.val % 256 := by
  rw [← data_reg]
  exact (s.block_byte 0 k).symm

theorem State.key_byte (s : State) (k : Fin 8) :
    (s.reg (Fin.ofNat 32 (8 + k.val))).toNat = s.desBlocks.2.toNat / 256 ^ k.val % 256 := by
  rw [← key_reg]
  exact (s.block_byte 8 k).symm

/-- Blocks are known by their bytes. -/
theorem State.desBlocks_eq {s : State} {D Q : BitVec 64}
    (hD : ∀ k : Fin 8, D.toNat / 256 ^ k.val % 256 = (s.reg (Fin.ofNat 32 k.val)).toNat)
    (hQ : ∀ k : Fin 8, Q.toNat / 256 ^ k.val % 256 = (s.reg (Fin.ofNat 32 (8 + k.val))).toNat) :
    s.desBlocks = (D, Q) :=
  Prod.ext (block_ext fun k => (s.data_byte k).symm.trans (hD k).symm)
    (block_ext fun k => (s.key_byte k).symm.trans (hQ k).symm)

/-- R16 to R31 are in neither block. -/
theorem not_block_of_not_desRegs {j : RegIx} (hj : j ∉ desRegs) (k : Fin 8) :
    j ≠ 0 + Fin.ofNat 32 k.val ∧ j ≠ 8 + Fin.ofNat 32 k.val := by
  revert j k; decide

/-- Writing the blocks changes only registers. -/
theorem State.setDesBlocks_eq (s : State) (x : BitVec 64 × BitVec 64) :
    ∃ g, s.setDesBlocks x = { s with regs := g } := by
  obtain ⟨g, hg⟩ := s.setBlock_eq 0 x.1
  obtain ⟨g', hg'⟩ := (s.setBlock 0 x.1).setBlock_eq 8 x.2
  refine ⟨g', ?_⟩
  rw [State.setDesBlocks, hg', hg]

theorem State.setDesBlocks_reg_outside (s : State) (x : BitVec 64 × BitVec 64) {j : RegIx} (hj : j ∉ desRegs) :
    (s.setDesBlocks x).reg j = s.reg j := by
  rw [State.setDesBlocks, State.setBlock_reg_outside _ _ _ _ fun k => (not_block_of_not_desRegs hj k).2,
    State.setBlock_reg_outside _ _ _ _ fun k => (not_block_of_not_desRegs hj k).1]

/-- The ending of an instruction that changes registers of a list. -/
theorem frame_advance_of_registers {s u : State} {g : Vector Byte 32} {changed : List RegIx}
    (hu : u = { s with regs := g }) (h : ∀ j, j ∉ changed → u.reg j = s.reg j) :
    OnlyRegisters s (u.advance 1) changed ∧ (u.advance 1).sreg = s.sreg ∧ PcPlus s (u.advance 1) 1 := by
  subst hu
  exact ⟨⟨h, memoryKept_of_eq rfl rfl rfl rfl, rfl⟩, rfl, pcPlus_advance_one _ _ rfl⟩

/-! Instructions one after the other. -/

theorem OnlyRegisters.cfg {s t : State} {changed : List RegIx} (h : OnlyRegisters s t changed) : t.cfg = s.cfg := by
  rw [h.rest]

theorem MemoryKept.trans {s t u : State} (h : MemoryKept s t) (k : MemoryKept t u) : MemoryKept s u := by
  obtain ⟨sram, prog, dev⟩ := h
  obtain ⟨sram', prog', dev'⟩ := k
  exact ⟨fun a => (sram' a).trans (sram a), fun a => (prog' a).trans (prog a), fun l => (dev' l).trans (dev l)⟩

theorem OnlyRegisters.trans {s t u : State} {changed : List RegIx} (h : OnlyRegisters s t changed)
    (k : OnlyRegisters t u changed) : OnlyRegisters s u changed := by
  refine ⟨fun i hi => (k.regs i hi).trans (h.regs i hi), h.memory.trans k.memory, ?_⟩
  have rest := k.rest
  rw [h.rest] at rest
  exact rest

theorem PcPlus.trans {s t u : State} {m n : Int} (h : PcPlus s t m) (k : PcPlus t u n) (hcfg : t.cfg = s.cfg) :
    PcPlus s u (m + n) := by
  rw [PcPlus] at h k ⊢
  rw [k, h, hcfg, Int.emod_add_emod, Int.add_assoc]

/-- What running DES instructions comes to: the blocks of the rounds, SREG as it was, PC one on for each. -/
structure DesRun (Ks : List Nat) (s t : State) : Prop where
  blocks : t.desBlocks = Ks.foldl (fun y K => desRound y.1 y.2 (BitVec.ofNat 4 K) (s.flag flagH)) s.desBlocks
  sreg : t.sreg = s.sreg
  frame : OnlyRegisters s t desRegs
  next : PcPlus s t Ks.length

theorem desRun_one (K : Nat) (s : State) : ∃ t, exec (.des (BitVec.ofNat 4 K)) s = .next t ∧ DesRun [K] s t := by
  obtain ⟨g, hg⟩ := s.setDesBlocks_eq (desRound s.desBlocks.1 s.desBlocks.2 (BitVec.ofNat 4 K) (s.flag flagH))
  obtain ⟨frame, sreg, next⟩ := frame_advance_of_registers hg fun j hj => s.setDesBlocks_reg_outside _ hj
  refine ⟨_, exec_des _ s, ?_, sreg, frame, next⟩
  rw [State.desBlocks_advance, State.desBlocks_setDesBlocks, List.foldl_cons, List.foldl_nil]

/-- DES instructions one after the other run the rounds in that order. -/
theorem execAll_des (K : Nat) (Ks : List Nat) (s : State) :
    ∃ t, execAll ((K :: Ks).map fun K => .des (BitVec.ofNat 4 K)) s = .next t ∧ DesRun (K :: Ks) s t := by
  induction Ks generalizing K s with
  | nil =>
    obtain ⟨t, ht, run⟩ := desRun_one K s
    refine ⟨t, ?_, run⟩
    rw [List.map_cons, execAll, ht]
    rfl
  | cons L Ks ih =>
    obtain ⟨t, ht, first⟩ := desRun_one K s
    obtain ⟨u, hu, rest⟩ := ih L t
    refine ⟨u, ?_, ?blocks, rest.sreg.trans first.sreg, first.frame.trans rest.frame, ?next⟩
    · rw [List.map_cons, execAll, ht]
      exact hu
    case blocks =>
      rw [rest.blocks, first.blocks, State.flag, first.sreg]
      rfl
    case next =>
      have next := first.next.trans rest.next first.frame.cfg
      rwa [← Int.natCast_add, Nat.add_comm] at next

theorem execAll_desSixteen (s : State) :
    ∃ t, execAll desSixteen s = .next t ∧ DesRun (List.range 16) s t := execAll_des 0 _ s

end Sys2Proof.Machine

namespace Sys2Proof.Laws

open Sys2Proof.Machine

/-- Settles O38: one round is `Cfg.DesRound` of the two blocks; sixteen of them come to `desResult` (D21). It stands
outside `Machine`, where the name is that of the model's round. -/
theorem desRound : Obligations.DesRound := by
  intro K s D Q hD hQ
  have blocks := State.desBlocks_eq hD hQ
  refine ⟨?one, ?sixteen⟩
  case one =>
    obtain ⟨t, ht, run⟩ := desRun_one K.toNat s
    have result := run.blocks
    rw [BitVec.ofNat_toNat, BitVec.setWidth_eq] at ht
    rw [List.foldl_cons, List.foldl_nil, blocks, BitVec.ofNat_toNat, BitVec.setWidth_eq] at result
    refine ⟨t, ht, fun k => ?_, fun k => ?_, run.sreg, run.frame, run.next⟩
    · rw [t.data_byte, result]
    · rw [t.key_byte, result]
  case sixteen =>
    obtain ⟨t, ht, run⟩ := execAll_desSixteen s
    have result := run.blocks
    rw [blocks, desRound_sixteen] at result
    refine ⟨t, ht, fun k => ?_, fun k => BitVec.eq_of_toNat_eq ?_, run.sreg, run.frame, run.next⟩
    · rw [t.data_byte, result]
      rfl
    · rw [t.key_byte, result, ← hQ k]
      rfl

end Sys2Proof.Laws

namespace Sys2Proof.Machine

/-! SUPPORT. The statements of 41_branch.md: compares, jumps, conditional branches, calls, returns, skips. -/

open Sys2Proof

/-! ### Compares (R213 to R215) -/

/-- An instruction that ends in the flags of a difference that is written nowhere. -/
theorem exec_compareRule {i : Instr} {s : State} {a b : Byte} {cin keepZ : Bool}
    (h : exec i s = .next ((s.setSreg (subFlags s.sreg a b cin keepZ)).advance 1)) :
    ∃ t, exec i s = .next t ∧ (∃ res, SubRule a b cin keepZ res s.sreg t.sreg) ∧ OnlySreg s t ∧ PcPlus s t 1 := by
  obtain ⟨t, ht, flags, frame⟩ := exec_subRule_discarded h
  exact ⟨t, ht, ⟨_, flags⟩, frame⟩

/-- Settles O30: all three end in the flags of the difference, which goes to no register. -/
theorem compareResults : Obligations.CompareResults := fun _ _ _ _ =>
  ⟨exec_compareRule rfl, exec_compareRule rfl, exec_compareRule rfl⟩

/-! ### Targets as numbers -/

/-- The target of IJMP and ICALL. -/
theorem State.zTarget_toNat (s : State) :
    ((s.pair 30).setWidth 22).toNat = (s.reg 31).toNat * 256 + (s.reg 30).toNat :=
  (BitVec.toNat_setWidth_of_le (by decide)).trans (s.pair_toNat 30)

/-- The target of EIJMP and EICALL. -/
theorem State.eindTarget_toNat (s : State) : (s.eind.extractLsb' 0 6 ++ s.pair 30).toNat =
    s.eind.toNat % 64 * 65536 + (s.reg 31).toNat * 256 + (s.reg 30).toNat := by
  have pair : (s.pair 30).toNat = (s.reg 31).toNat * 256 + (s.reg 30).toNat := s.pair_toNat 30
  rw [append_toNat, extract_toNat, pair]
  omega

/-- The target of RCALL, counted from a PC one turn of 2^22 on so that it is not negative. -/
theorem relativeTarget_toNat (pc : ProgAddr) (k : BitVec 12) : (pc + (k.signExtend 22 + 1)).toNat =
    ((pc.toNat : Int) + k.toInt + 1 + 4194304).toNat % 2 ^ 22 := by
  have offset := signExtend_succ_toInt k (by decide) (by decide)
  have low := BitVec.le_toInt k
  rw [BitVec.toInt_eq_toNat_cond] at offset
  rw [BitVec.toNat_add]
  split at offset <;> omega

theorem State.setPc_pc_toNat (s : State) (v : ProgAddr) : (s.setPc v).pc.toNat = v.toNat % 2 ^ pcBits s.cfg.pcWidth :=
  wrapPc_toNat s.cfg v

/-! ### Jumps (R202 to R205) -/

/-- Settles O39: each loads the PC with its target and does nothing else. -/
theorem jumps : Obligations.Jumps := by
  intro s
  refine ⟨fun k => ?rjmp, ?ijmp, ?eijmp, fun k => ?jmp⟩
  case rjmp =>
    have next := pcPlus_advance s (s.advance (k.signExtend 22 + 1)) _ rfl
    rw [signExtend_succ_toInt k (by decide) (by decide)] at next
    exact ⟨_, rfl, onlyPc_setPc s _, next⟩
  case ijmp => exact ⟨_, rfl, onlyPc_setPc s _, by rw [State.setPc_pc_toNat, State.zTarget_toNat]⟩
  case eijmp => exact ⟨_, rfl, onlyPc_setPc s _, by rw [State.setPc_pc_toNat, State.eindTarget_toNat]⟩
  case jmp => exact ⟨_, rfl, onlyPc_setPc s _, s.setPc_pc_toNat k⟩

/-! ### Conditional branches (R220 to R239) -/

/-- An instruction that ends in a conditional branch. -/
theorem branchRule_branchIf {mk : BitVec 7 → Instr} {cond : State → Bool}
    (h : ∀ k s, exec (mk k) s = .next (s.branchIf (cond s) k)) : BranchRule mk cond :=
  fun k s => ⟨_, h k s, branchIf_spec s (cond s) k⟩

/-- Settles O40: all twenty end in the same branch, each with its own condition. -/
theorem branches : Obligations.Branches := by
  refine ⟨fun n => ?brbs, fun n => ?brbc, ?named⟩
  case brbs => exact branchRule_branchIf fun _ _ => rfl
  case brbc => exact branchRule_branchIf fun _ _ => rfl
  case named => and_intros <;> exact branchRule_branchIf fun _ _ => rfl

/-! ### Calls (R200, R206 to R209) -/

theorem callTo_pushed {ra target : ProgAddr} {s u : State} (h : pushPc (wrapPc s.cfg ra) s = .ok () u) :
    callTo ra target s = .ok () (u.setPc target) := by rw [callTo, h, Res.ok_bind]

theorem callTo_stop {ra target : ProgAddr} {s u : State} {f : FaultInfo}
    (h : pushPc (wrapPc s.cfg ra) s = .stop f u) : callTo ra target s = .stop f u := by rw [callTo, h, Res.stop_bind]

/-- An instruction that is a call, with its target as a number before the reduction modulo 2^PC_BITS. -/
theorem callRule_callTo {i : Instr} {n : ProgAddr} {address : State → ProgAddr} {target : State → Nat}
    (hexec : ∀ s, exec i s = (callTo (s.pc + n) (address s) s).outcome)
    (haddress : ∀ s, (address s).toNat = target s % 2 ^ 22) : CallRule i n.toNat target := by
  intro s ra hra
  have hpushed : wrapPc s.cfg (s.pc + n) = ra := BitVec.eq_of_toNat_eq ((s.advance_pc_toNat n).trans hra.symm)
  have jump : ∀ u, pushPc ra s = .ok () u → ∃ t, exec i s = .next t ∧ t = { u with pc := t.pc } ∧
      t.pc.toNat = target s % 2 ^ pcBits s.cfg.pcWidth := by
    intro u hpush
    obtain ⟨kept, -⟩ := Keeps.pushPc hpush
    refine ⟨u.setPc (address s), ?_, rfl, ?_⟩
    · rw [hexec, callTo_pushed (by rw [hpushed, hpush]), Res.outcome_ok]
    · rw [State.setPc_pc_toNat, kept.control.cfg, haddress, mod_pcBits]
  refine ⟨fun b bytes => ?inSram, jump, fun f u hstop => ?fault⟩
  case inSram =>
    obtain ⟨t, ht, rest, pc⟩ := jump _ (pushPc_sram ra bytes)
    exact ⟨_, t, ht, pushedPc_pushedSram ra bytes, rest, pc⟩
  case fault => rw [hexec, callTo_stop (by rw [hpushed, hstop]), Res.outcome_stop]

/-- Settles O41: each is the same call to its own target, which is computed before the push. -/
theorem calls : Obligations.Calls := by
  refine ⟨fun k => ?rcall, ?icall, ?eicall, fun k => ?call⟩
  case rcall => exact callRule_callTo (n := 1) (fun _ => rfl) fun s => relativeTarget_toNat s.pc k
  case icall =>
    refine callRule_callTo (n := 1) (fun _ => rfl) fun s => ?_
    rw [← s.zTarget_toNat, Nat.mod_eq_of_lt (BitVec.isLt _)]
  case eicall =>
    refine callRule_callTo (n := 1) (fun _ => rfl) fun s => ?_
    rw [← s.eindTarget_toNat, Nat.mod_eq_of_lt (BitVec.isLt _)]
  case call => exact callRule_callTo (n := 2) (fun _ => rfl) fun _ => (Nat.mod_eq_of_lt k.isLt).symm

/-! ### Returns (R210, R211, R437) -/

section Returns

variable {s u : State}

/-- RET after `PopPC`. -/
theorem exec_ret_popped {ra : ProgAddr} (h : popPc s = .ok ra u) : exec .ret s = .next (u.setPc ra) := by
  change ((popPc s).bind _).outcome = _
  rw [h, Res.ok_bind, Res.outcome_ok]

/-- RETI after `PopPC`. -/
theorem exec_reti_popped {ra : ProgAddr} (h : popPc s = .ok ra u) :
    exec .reti s = .next ((u.setSreg (putBit u.sreg flagI true)).setPc ra) := by
  change ((popPc s).bind _).outcome = _
  rw [h, Res.ok_bind, Res.outcome_ok]
  rfl

theorem exec_ret_reti_stop {f : FaultInfo} (h : popPc s = .stop f u) :
    exec .ret s = .fault (raise f u) ∧ exec .reti s = .fault (raise f u) := by
  constructor <;> change ((popPc s).bind _).outcome = _ <;> rw [h, Res.stop_bind, Res.outcome_stop]

/-- The PC a return leaves. -/
theorem popPc_pc_toNat {ra : ProgAddr} (h : popPc s = .ok ra u) :
    (wrapPc u.cfg ra).toNat = ra.toNat % 2 ^ pcBits s.cfg.pcWidth := by
  rw [wrapPc_toNat, (Keeps.popPc h).control.cfg]

end Returns

/-- Settles O42: a return is `PopPC` and then the jump, and RETI sets I on the way. -/
theorem returns : Obligations.Returns := by
  intro s
  have flagSet : ∀ u : State, (u.setSreg (putBit u.sreg flagI true)).flag flagI = true := fun u =>
    getLsbD_putBit u.sreg flagI true
  refine ⟨fun b bytes => ?inSram, fun ra u hpop => ?popped, fun f u hstop => exec_ret_reti_stop hstop⟩
  case inSram =>
    obtain ⟨ra, hpop, hra⟩ := popPc_sram bytes
    have pc := popPc_pc_toNat hpop
    rw [hra] at pc
    exact ⟨⟨_, exec_ret_popped hpop, pc, rfl⟩, ⟨_, exec_reti_popped hpop, pc, flagSet _, putBit_kept _ _ _, rfl⟩⟩
  case popped =>
    have pc := popPc_pc_toNat hpop
    exact ⟨⟨_, exec_ret_popped hpop, rfl, pc⟩, ⟨_, exec_reti_popped hpop, rfl, flagSet _, putBit_kept _ _ _, pc⟩⟩

/-! ### Skips (R201, R212, R216 to R219) -/

/-- A skip with nothing read before it. -/
theorem skipRule_skipIf_self (cond : Bool) (s : State) : SkipRule cond (skipIf cond s).outcome s s :=
  skipRule_skipIf cond s s.dev.hidden

/-- Settles O43: each is one skip, those of a register in the same state, those of an I/O location after its read. -/
theorem skips : Obligations.Skips := by
  refine ⟨fun d r s => ?cpse, fun r b s => ⟨?sbrc, ?sbrs⟩, fun A b s => ⟨?sbic, ?sbis⟩⟩
  case cpse => exact skipRule_skipIf_self (decide (s.reg d = s.reg r)) s
  case sbrc => exact skipRule_skipIf_self (!getBit (s.reg r) b) s
  case sbrs => exact skipRule_skipIf_self (getBit (s.reg r) b) s
  case sbic => exact skipRule_ioRead (!getBit (ioRead (lowIo A) s).1 b) (lowIo A) s
  case sbis => exact skipRule_ioRead (getBit (ioRead (lowIo A) s).1 b) (lowIo A) s

end Sys2Proof.Machine

namespace Sys2Proof.Machine

/-! SUPPORT. The statements of 42_data_transfer_load_store.md: loads and stores, plain and through a moving pointer, the
register moves, the undefined operand combinations. -/

open Sys2Proof

/-! ### The ending of a load and of a store -/

section Endings

variable {s u : State} (cfg : u.cfg = s.cfg) (pc : u.pc = s.pc)
include cfg pc

/-- `advance` reads the PC and the configuration only. -/
theorem State.advance_pc_congr (n : ProgAddr) : (u.advance n).pc = (s.advance n).pc := by
  simp only [State.advance_pc, cfg, pc]

theorem moves_advance (n : ProgAddr) : Moves s u (u.advance n) n.toInt :=
  ⟨rfl, pcPlus_advance s _ n (State.advance_pc_congr cfg pc n)⟩

theorem loads_advance (d : RegIx) (v : Byte) (n : ProgAddr) : Loads d v s u ((u.setReg d v).advance n) n.toInt :=
  ⟨State.setReg_reg_self u d v, fun _ hi => State.setReg_reg_ne u v hi, rfl,
    pcPlus_advance s _ n (State.advance_pc_congr cfg pc n)⟩

end Endings

theorem regWritten_setReg (d : RegIx) (v : Byte) (s : State) : RegWritten d v s (s.setReg d v) :=
  ⟨State.setReg_reg_self s d v, fun _ hi => State.setReg_reg_ne s v hi, rfl⟩

theorem memRead_pc {a : Nat} {s t : State} {v : Byte} (h : memRead a s = .ok v t) : t.pc = s.pc := by
  rw [memRead_ok h, State.setHidden_pc]

/-! ### Loads and stores at an address

The access is made in `x`, which is `s` but for a pointer written before; the PC counts from `s`. -/

section Access

variable {a : DataAddr} {n : ProgAddr} {s x : State}

theorem loadAt_readable (d : RegIx) (cfg : x.cfg = s.cfg) (pc : x.pc = s.pc) (h : readable s a.toNat = true) :
    ∃ v u t, Reads a.toNat x v u ∧ loadAt d a n x = .ok () t ∧ Loads d v s u t n.toInt := by
  obtain ⟨v, u, hread, reads⟩ := memRead_readable ((readable_congr cfg _).trans h)
  have cfg_u : u.cfg = s.cfg := (Keeps.memRead hread).control.cfg.trans cfg
  have pc_u : u.pc = s.pc := (memRead_pc hread).trans pc
  exact ⟨v, u, _, reads, by rw [loadAt, hread, Res.ok_bind], loads_advance cfg_u pc_u d v n⟩

theorem loadAt_unreadable (d : RegIx) (cfg : x.cfg = s.cfg) (h : readable s a.toNat = false) :
    loadAt d a n x = .stop (accessFault s a.toNat) x := by
  rw [loadAt, memRead_unreadable ((readable_congr cfg _).trans h), accessFault_congr cfg, Res.stop_bind]

theorem storeAt_writable (v : Byte) (cfg : x.cfg = s.cfg) (pc : x.pc = s.pc) (h : writable s a.toNat = true) :
    ∃ u t, Writes a.toNat v x u ∧ storeAt a v n x = .ok () t ∧ Moves s u t n.toInt := by
  obtain ⟨u, hwrite, writes⟩ := memWrite_writable v ((writable_congr cfg _).trans h)
  obtain ⟨kept, pc_u⟩ := Keeps.memWrite hwrite
  exact ⟨u, _, writes, by rw [storeAt, hwrite, Res.ok_bind],
    moves_advance (kept.control.cfg.trans cfg) (pc_u.trans pc) n⟩

theorem storeAt_unwritable (v : Byte) (cfg : x.cfg = s.cfg) (h : writable s a.toNat = false) :
    storeAt a v n x = .stop (.dataAccess a.toNat) x := by
  rw [storeAt, memWrite_unwritable v ((writable_congr cfg _).trans h), Res.stop_bind]

end Access

/-! ### Loads and stores through an address that no effect precedes (R264 to R266, R272, R277 to R279, R285) -/

/-- The address of the 16-bit LDS and STS as a number (R265, the resolution C4). -/
theorem shortAddr_toNat (k : BitVec 7) : (shortAddr k).toNat =
    (if k.toNat / 16 % 2 = 1 then 0x40 else 0x80) + k.toNat / 64 * 32 + k.toNat / 32 % 2 * 16 + k.toNat % 16 := by
  have := k.isLt
  have bit (i : Nat) : (k.getLsbD i).toNat = k.toNat / 2 ^ i % 2 := Nat.toNat_testBit _ _
  have flipped (b : Bool) : (!b).toNat = 1 - b.toNat := by cases b <;> rfl
  rw [shortAddr, BitVec.toNat_setWidth_of_le (by decide)]
  simp only [append_toNat, extract_toNat, BitVec.toNat_ofBool, flipped, bit]
  split <;> omega

/-- An instruction that is a load, with its address as a number. -/
theorem loadRule_loadAt {mk : RegIx → Instr} {addr : State → Nat} {address : State → DataAddr} {n : ProgAddr}
    (hexec : ∀ d s, exec (mk d) s = (loadAt d (address s) n s).outcome)
    (haddress : ∀ s, (address s).toNat = addr s) : LoadRule mk addr n.toInt := by
  intro d s
  rw [← haddress, hexec]
  refine ⟨fun h => ?readable, fun h => ?unreadable⟩
  case readable =>
    obtain ⟨v, u, t, reads, hload, loads⟩ := loadAt_readable (n := n) d rfl rfl h
    exact ⟨v, u, t, reads, by rw [hload, Res.outcome_ok], loads⟩
  case unreadable => rw [loadAt_unreadable d rfl h, Res.outcome_stop]

/-- An instruction that is a store, with its address as a number. -/
theorem storeRule_storeAt {mk : RegIx → Instr} {addr : State → Nat} {address : State → DataAddr} {n : ProgAddr}
    (hexec : ∀ r s, exec (mk r) s = (storeAt (address s) (s.reg r) n s).outcome)
    (haddress : ∀ s, (address s).toNat = addr s) : StoreRule mk addr n.toInt := by
  intro r s
  rw [← haddress, hexec]
  refine ⟨fun h => ?writable, fun h => ?unwritable⟩
  case writable =>
    obtain ⟨u, t, writes, hstore, moves⟩ := storeAt_writable (n := n) (s.reg r) rfl rfl h
    exact ⟨u, t, writes, by rw [hstore, Res.outcome_ok], moves⟩
  case unwritable => rw [storeAt_unwritable _ rfl h, Res.outcome_stop]

/-- Settles O45: each is the same load at its own address. -/
theorem plainLoads : Obligations.PlainLoads := by
  refine ⟨?ldX, ?ldY, ?ldZ, fun q => ?lddY, fun q => ?lddZ, fun k => ?lds, fun k => ?lds16⟩
  case ldX | ldY | ldZ => exact loadRule_loadAt (n := 1) (fun _ _ => rfl) (ptrGet_toNat _)
  case lddY | lddZ => exact loadRule_loadAt (n := 1) (fun _ _ => rfl) (ptrDisp_toNat _ q)
  case lds => exact loadRule_loadAt (n := 2) (fun _ _ => rfl) (directAddr_toNat k)
  case lds16 => exact loadRule_loadAt (n := 1) (fun _ _ => rfl) fun _ => shortAddr_toNat k

/-- Settles O47: each is the same store at its own address. -/
theorem plainStores : Obligations.PlainStores := by
  refine ⟨?stX, ?stY, ?stZ, fun q => ?stdY, fun q => ?stdZ, fun k => ?sts, fun k => ?sts16⟩
  case stX | stY | stZ => exact storeRule_storeAt (n := 1) (fun _ _ => rfl) (ptrGet_toNat _)
  case stdY | stdZ => exact storeRule_storeAt (n := 1) (fun _ _ => rfl) (ptrDisp_toNat _ q)
  case sts => exact storeRule_storeAt (n := 2) (fun _ _ => rfl) (directAddr_toNat k)
  case sts16 => exact storeRule_storeAt (n := 1) (fun _ _ => rfl) fun _ => shortAddr_toNat k

/-! ### Loads and stores through a moving pointer (R267, R268, R280, R281) -/

section MovingPointer

variable {p : Pointer} {mk : RegIx → Instr}

/-- The pointer one on from where it stood in `s`, written after an access. -/
theorem pointerSet_ptrNext (p : Pointer) {s w : State} (cfg : w.cfg = s.cfg) :
    PointerSet p ((pointer p s + 1) % dataModulus s) w (ptrSet p (ptrNext p s) w) := by
  rw [← ptrNext_toNat]
  refine ptrSet_spec p _ w ?_
  rw [dataModulus, cfg]
  exact ptrNext_lt p s

theorem pointerSet_ptrPrev (p : Pointer) (s : State) :
    PointerSet p (decremented p s) s (ptrSet p (ptrPrev p s) s) := by
  rw [← ptrPrev_toNat]
  exact ptrSet_spec p _ s (ptrPrev_lt p s)

/-- The PC moved after a pointer is written. -/
theorem moves_ptrSet {s w : State} (cfg : w.cfg = s.cfg) (pc : w.pc = s.pc) (v : DataAddr) (n : ProgAddr) :
    Moves s (ptrSet p v w) ((ptrSet p v w).advance n) n.toInt := by
  obtain ⟨kept, pc_kept, -⟩ := Keeps.ptrSet p v w
  exact moves_advance (kept.control.cfg.trans cfg) (pc_kept.trans pc) n

theorem loadIncRule_loadPostInc (hexec : ∀ d s, exec (mk d) s = (loadPostInc (mk d) p d s).outcome) :
    LoadIncRule mk p := by
  intro d s hlo hhi
  rw [← ptrGet_toNat, hexec, loadPostInc, owns_false hlo hhi, if_neg Bool.false_ne_true]
  refine ⟨fun h => ?readable, fun h => ?unreadable⟩
  case readable =>
    obtain ⟨v, u, hread, reads⟩ := memRead_readable h
    have cfg : u.cfg = s.cfg := (Keeps.memRead hread).control.cfg
    have pc : u.pc = s.pc := memRead_pc hread
    rw [hread, Res.ok_bind, Res.outcome_ok]
    rw [ptrGet_toNat] at reads ⊢
    exact ⟨v, u, u.setReg d v, _, _, reads, regWritten_setReg d v u, pointerSet_ptrNext p cfg, rfl,
      moves_ptrSet (w := u.setReg d v) cfg pc _ 1⟩
  case unreadable => rw [memRead_unreadable h, Res.stop_bind, Res.outcome_stop]

theorem loadDecRule_loadPreDec (hexec : ∀ d s, exec (mk d) s = (loadPreDec (mk d) p d s).outcome) :
    LoadDecRule mk p := by
  intro d s hlo hhi
  obtain ⟨kept, pc, -⟩ := Keeps.ptrSet p (ptrPrev p s) s
  have cfg := kept.control.cfg
  refine ⟨ptrSet p (ptrPrev p s) s, pointerSet_ptrPrev p s, ?_⟩
  rw [← ptrPrev_toNat, hexec, loadPreDec, owns_false hlo hhi, if_neg Bool.false_ne_true]
  refine ⟨fun h => ?readable, fun h => ?unreadable⟩
  case readable =>
    obtain ⟨v, u, t, reads, hload, loads⟩ := loadAt_readable (n := 1) d cfg pc h
    exact ⟨v, u, t, reads, by rw [hload, Res.outcome_ok], loads⟩
  case unreadable => rw [loadAt_unreadable d cfg h, Res.outcome_stop]

theorem storeIncRule_storePostInc (hexec : ∀ r s, exec (mk r) s = (storePostInc (mk r) p r s).outcome) :
    StoreIncRule mk p := by
  intro r s hlo hhi
  rw [← ptrGet_toNat, hexec, storePostInc, owns_false hlo hhi, if_neg Bool.false_ne_true]
  refine ⟨fun h => ?writable, fun h => ?unwritable⟩
  case writable =>
    obtain ⟨u, hwrite, writes⟩ := memWrite_writable (s.reg r) h
    obtain ⟨kept, pc⟩ := Keeps.memWrite hwrite
    have cfg := kept.control.cfg
    rw [hwrite, Res.ok_bind, Res.outcome_ok]
    rw [ptrGet_toNat] at writes ⊢
    exact ⟨u, _, _, writes, pointerSet_ptrNext p cfg, rfl, moves_ptrSet cfg pc _ 1⟩
  case unwritable => rw [memWrite_unwritable _ h, Res.stop_bind, Res.outcome_stop]

theorem storeDecRule_storePreDec (hexec : ∀ r s, exec (mk r) s = (storePreDec (mk r) p r s).outcome) :
    StoreDecRule mk p := by
  intro r s hlo hhi
  obtain ⟨kept, pc, -⟩ := Keeps.ptrSet p (ptrPrev p s) s
  have cfg := kept.control.cfg
  refine ⟨ptrSet p (ptrPrev p s) s, pointerSet_ptrPrev p s, ?_⟩
  rw [← ptrPrev_toNat, hexec, storePreDec, owns_false hlo hhi, if_neg Bool.false_ne_true]
  refine ⟨fun h => ?writable, fun h => ?unwritable⟩
  case writable =>
    obtain ⟨u, t, writes, hstore, moves⟩ := storeAt_writable (n := 1) (s.reg r) cfg pc h
    exact ⟨u, t, writes, by rw [hstore, Res.outcome_ok], moves⟩
  case unwritable => rw [storeAt_unwritable _ cfg h, Res.outcome_stop]

end MovingPointer

/-- Settles O46: the same post-increment and the same pre-decrement load through each pointer. -/
theorem movingLoads : Obligations.MovingLoads := by
  refine ⟨?xInc, ?yInc, ?zInc, ?xDec, ?yDec, ?zDec⟩
  case xInc | yInc | zInc => exact loadIncRule_loadPostInc fun _ _ => rfl
  case xDec | yDec | zDec => exact loadDecRule_loadPreDec fun _ _ => rfl

/-- Settles O48: the same post-increment and the same pre-decrement store through each pointer. -/
theorem movingStores : Obligations.MovingStores := by
  refine ⟨?xInc, ?yInc, ?zInc, ?xDec, ?yDec, ?zDec⟩
  case xInc | yInc | zInc => exact storeIncRule_storePostInc fun _ _ => rfl
  case xDec | yDec | zDec => exact storeDecRule_storePreDec fun _ _ => rfl

/-! ### Register moves (R164, R261 to R263, R365) -/

/-- An instruction that ends in one register written. -/
theorem exec_setReg {i : Instr} {s : State} {d : RegIx} {v : Byte} (h : exec i s = .next ((s.setReg d v).advance 1)) :
    ∃ t, exec i s = .next t ∧ t.reg d = v ∧ t.sreg = s.sreg ∧ OnlyRegisters s t [d] ∧ PcPlus s t 1 :=
  ⟨_, h, State.setReg_reg_self s d v, rfl, onlyRegisters_setReg s d v, pcPlus_advance_one _ _ rfl⟩

/-- A pair copied: both registers are read before either is written. -/
theorem State.setPair_pair_reg (s : State) (d r : RegIx) :
    (s.setPair d (s.pair r)).reg d = s.reg r ∧ (s.setPair d (s.pair r)).reg (d + 1) = s.reg (r + 1) := by
  rw [State.setPair_reg, State.setPair_reg, if_neg (RegIx.succ_ne d).symm, if_pos rfl, if_pos rfl]
  exact ⟨BitVec.extractLsb'_append_eq_right, BitVec.extractLsb'_append_eq_left⟩

/-- The nibbles of a byte exchanged. -/
theorem swapped_toNat (v : Byte) :
    (v.extractLsb' 0 4 ++ v.extractLsb' 4 4).toNat = v.toNat % 16 * 16 + v.toNat / 16 := by
  have := v.isLt
  rw [append_toNat, extract_toNat, extract_toNat]
  omega

/-- Settles O44: each writes one register or one pair and moves the PC. -/
theorem registerMoves : Obligations.RegisterMoves := by
  intro d r K s
  refine ⟨exec_setReg rfl, ?movw, exec_setReg rfl, exec_setReg rfl, ?swap⟩
  case movw =>
    obtain ⟨low, high⟩ := s.setPair_pair_reg d r
    exact ⟨_, rfl, low, high, rfl, onlyRegisters_setPair s d _, pcPlus_advance_one _ _ rfl⟩
  case swap =>
    obtain ⟨t, ht, value, frame⟩ := exec_setReg (i := .swap d) (s := s) rfl
    exact ⟨t, ht, by rw [value, swapped_toNat], frame⟩

/-! ### Undefined operand combinations (R290, R336) -/

/-- Whether an instruction moves a pointer of which its data register is a part. -/
def overlapsPointer : Instr → Bool
  | .ldXInc d | .ldXDec d | .stXInc d | .stXDec d => Pointer.x.owns d
  | .ldYInc d | .ldYDec d | .stYInc d | .stYDec d => Pointer.y.owns d
  | .ldZInc d | .ldZDec d | .stZInc d | .stZDec d | .lpmZInc d | .elpmZInc d => Pointer.z.owns d
  | _ => false

/-- Such an instruction stops before any effect. -/
theorem exec_overlapsPointer {i : Instr} (h : overlapsPointer i = true) (s : State) :
    exec i s = (undefinedOperand i s).outcome := by
  unfold overlapsPointer at h
  split at h
  -- LPM and ELPM test the register around the whole outcome, loads and stores inside the result.
  case h_13 | h_14 => exact if_pos h
  case h_15 => cases h
  all_goals exact congrArg Res.outcome (if_pos h)

/-- A list of overlapping instructions with words that every core reads as them. -/
theorem undefined_of_overlapsPointer {l : List (Instr × Word)}
    (h : ∀ e ∈ l, overlapsPointer e.1 = true ∧ ∀ core ∈ [Core.avr, .xmega, .rc], decode core e.2 0 = some e.1)
    (s : State) (i : Instr) (w : Word) (hl : (i, w) ∈ l) : decode s.cfg.core w 0 = some i ∧
      exec i s = .fault (.undefinedOperand s.pc w { s with run := .faulted (.undefinedOperand s.pc w) }) := by
  obtain ⟨overlap, reads⟩ := h (i, w) hl
  have decoded : decode s.cfg.core w 0 = some i := reads s.cfg.core (by cases s.cfg.core <;> simp)
  rw [exec_overlapsPointer overlap, undefinedOperand, firstWord_of_decode decoded]
  exact ⟨decoded, rfl⟩

/-- Settles O49: every combination listed overlaps, and its word decodes to it on every core. -/
theorem undefinedCombinations : Obligations.UndefinedCombinations := undefined_of_overlapsPointer (by decide)

end Sys2Proof.Machine

namespace Sys2Proof.Machine

/-! SUPPORT. The statements of 43_data_transfer_progmem_io_stack.md: loads from program memory, SPM, IN and OUT, PUSH
and POP, the exchanges. -/

open Sys2Proof

/-! ### Program-memory addresses as numbers -/

theorem lpmAddr_toNat (s : State) : (lpmAddr s).toNat = (s.reg 31).toNat * 256 + (s.reg 30).toNat :=
  (BitVec.toNat_setWidth_of_le (by decide)).trans (s.pair_toNat 30)

/-- A byte before the pair Z, the form of the addresses of ELPM and SPM. -/
theorem append_z_toNat (high : Byte) (s : State) :
    (high ++ s.pair 30).toNat = high.toNat * 65536 + (s.reg 31).toNat * 256 + (s.reg 30).toNat := by
  have pair : (s.pair 30).toNat = (s.reg 31).toNat * 256 + (s.reg 30).toNat := s.pair_toNat 30
  rw [append_toNat, pair, ← Nat.add_assoc]
  rfl

theorem elpmAddr_toNat (s : State) :
    (elpmAddr s).toNat = s.rampZ.toNat * 65536 + (s.reg 31).toNat * 256 + (s.reg 30).toNat :=
  append_z_toNat s.rampZ s

theorem spmAddr_toNat (s : State) : (spmAddr s).toNat =
    (if s.cfg.progGt64k then s.rampZ.toNat else 0) * 65536 + (s.reg 31).toNat * 256 + (s.reg 30).toNat := by
  rw [spmAddr, append_z_toNat, apply_ite BitVec.toNat]
  rfl

/-! ### Loads from program memory without increment (R320, R321, R323, R324) -/

/-- An instruction that is a load from program memory, with its byte address as a number. -/
theorem exec_progLoadAt {i : Instr} {x : RegIx} {address : BitVec 24} {a : Nat} {s : State}
    (hexec : exec i s = (progLoadAt x address s).outcome) (haddress : address.toNat = a) :
    (a / 2 ≤ s.cfg.flashEnd → ∃ t, exec i s = .next t ∧ Loads x (s.progByte a) s s t 1) ∧
      (s.cfg.flashEnd < a / 2 → exec i s = .fault (raise (.fetchOutOfRange (a / 2)) s)) := by
  rw [hexec, progLoadAt, haddress]
  refine ⟨fun h => ?within, fun h => ?above⟩
  case within =>
    rw [progLoad_within h]
    exact ⟨_, rfl, loads_advance rfl rfl x _ 1⟩
  case above => rw [progLoad_above h, Res.stop_bind, Res.outcome_stop]

/-- Settles O50: each is the same load, into its register and from its address. -/
theorem programLoads : Obligations.ProgramLoads := by
  rintro d s i x a (⟨⟨rfl, rfl⟩ | ⟨rfl, rfl⟩, rfl⟩ | ⟨⟨rfl, rfl⟩ | ⟨rfl, rfl⟩, rfl⟩)
  · exact exec_progLoadAt rfl (lpmAddr_toNat s)
  · exact exec_progLoadAt rfl (lpmAddr_toNat s)
  · exact exec_progLoadAt rfl (elpmAddr_toNat s)
  · exact exec_progLoadAt rfl (elpmAddr_toNat s)

/-! ### Loads from program memory with increment (R322, R325) -/

/-- Registers outside a pair keep their value. -/
theorem State.setPair_reg_ne (s : State) {i j : RegIx} (v : Word) (low : j ≠ i) (high : j ≠ i + 1) :
    (s.setPair i v).reg j = s.reg j := by
  rw [State.setPair_reg, if_neg high, if_neg low]

/-- Z written reads back. -/
theorem State.setPair_z_toNat (s : State) (v : Word) :
    ((s.setPair 30 v).reg 31).toNat * 256 + ((s.setPair 30 v).reg 30).toNat = v.toNat :=
  s.setPair_toNat 30 v

/-- RAMPZ:Z written reads back. -/
theorem elpmAddr_setElpmAddr (v : BitVec 24) (s : State) : elpmAddr (setElpmAddr v s) = v := by
  have hv := v.isLt
  refine BitVec.eq_of_toNat_eq ?_
  rw [elpmAddr_toNat, setElpmAddr, Nat.add_assoc, State.setPair_z_toNat, State.setPair_rampZ, extract_toNat,
    extract_toNat]
  omega

section Increment

variable {d : RegIx} (low : d ≠ 30) (high : d ≠ 31)
include low high

/-- The registers after a load and the increment of Z. -/
theorem State.setReg_setPair_z_reg (s : State) (v : Byte) (w : Word) :
    ((s.setReg d v).setPair 30 w).reg d = v ∧
      ∀ i, i ∉ [d, 30, 31] → ((s.setReg d v).setPair 30 w).reg i = s.reg i := by
  refine ⟨?_, fun i hi => ?_⟩
  · rw [State.setPair_reg_ne _ w low high, State.setReg_reg_self]
  · simp only [List.mem_cons, List.not_mem_nil, or_false, not_or] at hi
    obtain ⟨hd, hlow, hhigh⟩ := hi
    rw [State.setPair_reg_ne _ w hlow hhigh, State.setReg_reg_ne s v hd]

theorem exec_lpmZInc (s : State) : exec (.lpmZInc d) s = ((progLoad (lpmAddr s).toNat s).bind fun v t =>
    .ok () (((t.setReg d v).setPair 30 (s.pair 30 + 1)).advance 1)).outcome :=
  if_neg (ne_true_of_eq_false (owns_false low high))

theorem exec_elpmZInc (s : State) : exec (.elpmZInc d) s = ((progLoad (elpmAddr s).toNat s).bind fun v t =>
    .ok () ((setElpmAddr (elpmAddr s + 1) (t.setReg d v)).advance 1)).outcome :=
  if_neg (ne_true_of_eq_false (owns_false low high))

end Increment

/-- Settles O51: the load, and the address it used plus one written back. -/
theorem programLoadsIncrement : Obligations.ProgramLoadsIncrement := by
  intro d s z low high hz
  have lpm : (lpmAddr s).toNat = z := (lpmAddr_toNat s).trans hz.symm
  have elpm : ∀ a, a = s.rampZ.toNat * 65536 + z → (elpmAddr s).toNat = a := fun a ha => by
    rw [elpmAddr_toNat, ha, hz, Nat.add_assoc]
  rw [exec_lpmZInc low high, exec_elpmZInc low high, lpm]
  refine ⟨fun h => ?lpm, fun h => ?lpmAbove, fun a ha h => ?elpm, fun a ha h => ?elpmAbove⟩
  case lpm =>
    rw [progLoad_within h]
    obtain ⟨value, others⟩ := s.setReg_setPair_z_reg low high (s.progByte z) (s.pair 30 + 1)
    refine ⟨_, rfl, value, ?z, rfl, rfl, ⟨others, memoryKept_of_eq rfl rfl rfl rfl, rfl⟩,
      pcPlus_advance_one _ _ rfl⟩
    have pair : (s.pair 30).toNat = z := (s.pair_toNat 30).trans hz.symm
    exact (State.setPair_z_toNat _ _).trans (by rw [BitVec.toNat_add, pair]; rfl)
  case elpm =>
    rw [elpm a ha, progLoad_within h]
    obtain ⟨value, others⟩ := { s with rampZ := (elpmAddr s + 1).extractLsb' 16 8 }.setReg_setPair_z_reg low high
      (s.progByte a) ((elpmAddr s + 1).extractLsb' 0 16)
    refine ⟨_, rfl, value, ?address, others, memoryKept_of_eq rfl rfl rfl rfl, rfl, pcPlus_advance_one _ _ rfl⟩
    have written := elpmAddr_setElpmAddr (elpmAddr s + 1) (s.setReg d (s.progByte a))
    refine (elpmAddr_toNat _).symm.trans ((congrArg BitVec.toNat written).trans ?_)
    rw [BitVec.toNat_add, elpm a ha]
    rfl
  case lpmAbove => rw [progLoad_above h, Res.stop_bind, Res.outcome_stop]
  case elpmAbove => rw [elpm a ha, progLoad_above h, Res.stop_bind, Res.outcome_stop]

/-! ### Words written (R326) -/

/-- A word of a memory after a word is written; `free` are the bytes that are not listed. -/
theorem Memory.wordOf_setWord (m : Memory) (w x : Nat) (v : Word) (free : Nat → Byte) :
    wordOf ((Memory.get (Memory.setWord m w v) (2 * x)).getD (free (2 * x)))
        ((Memory.get (Memory.setWord m w v) (2 * x + 1)).getD (free (2 * x + 1))) =
      if x = w then v
      else wordOf ((Memory.get m (2 * x)).getD (free (2 * x)))
        ((Memory.get m (2 * x + 1)).getD (free (2 * x + 1))) := by
  by_cases h : x = w
  · subst h
    rw [if_pos rfl, Memory.get_setWord, Memory.get_setWord, if_neg (by omega), if_pos rfl, if_pos rfl]
    exact wordOf_halves v
  · rw [if_neg h, Memory.get_setWord, Memory.get_setWord, if_neg (by omega), if_neg (by omega), if_neg (by omega),
      if_neg (by omega)]

/-- A list of writes: the first, then the others over it. -/
theorem lastWord_cons_getD (p : Nat × Word) (ws : List (Nat × Word)) (x : Nat) (old : Word) :
    (lastWord (p :: ws) x).getD old = (lastWord ws x).getD (if x = p.1 then p.2 else old) := by
  rw [lastWord]
  cases lastWord ws x with
  | some v => rfl
  | none =>
    rw [Option.getD_none, apply_ite (Option.getD · old)]
    exact if_congr eq_comm rfl rfl

/-- A list that writes at each of its addresses the word `f` gives. -/
theorem lastWord_map_getD (f : Nat → Word) (l : List Nat) (x : Nat) (old : Word) :
    (lastWord (l.map fun w => (w, f w)) x).getD old = if x ∈ l then f x else old := by
  induction l generalizing old with
  | nil => rfl
  | cons w l ih =>
    rw [List.map_cons, lastWord_cons_getD, ih]
    by_cases h : x = w
    · subst h; simp
    · simp [h]

theorem mem_pageWords {size : Nat} (hsize : 0 < size) (a w : Nat) :
    w ∈ pageWords size a ↔ w / size = a / 2 / size := by
  simp only [pageWords, List.mem_map, List.mem_range]
  constructor
  · rintro ⟨k, hk, rfl⟩
    rw [Nat.mul_comm, Nat.mul_add_div hsize, Nat.div_eq_of_lt hk, Nat.add_zero]
  · intro h
    exact ⟨w % size, Nat.mod_lt _ hsize, by rw [← h]; exact Nat.div_add_mod' w size⟩

section ProgramWords

variable {s : State} {m : Memory} {n x : Nat}

/-- A program word within FLASHEND after one is written. -/
theorem progWord_progSetWord (hx : x ≤ n) (w : Nat) (v : Word) :
    ({ s with prog := progSetWord n m w v } : State).progWord x =
      if x = w then v else ({ s with prog := m } : State).progWord x := by
  unfold progSetWord
  split
  · exact Memory.wordOf_setWord m w x v Config.progByte
  · rw [if_neg (by omega)]

/-- A program word within FLASHEND after a list of writes. -/
theorem progWord_progSetWords (hx : x ≤ n) (ws : List (Nat × Word)) :
    ({ s with prog := progSetWords n m ws } : State).progWord x =
      (lastWord ws x).getD (({ s with prog := m } : State).progWord x) := by
  induction ws generalizing m with
  | nil => rfl
  | cons p ws ih => rw [lastWord_cons_getD, ← progWord_progSetWord hx]; exact ih

/-- A program word within FLASHEND after the page of a byte address is written. -/
theorem progWord_page (hx : x ≤ n) {size : Nat} (hsize : 0 < size) (a : Nat) (f : Nat → Word) :
    ({ s with prog := progSetWords n m ((pageWords size a).map fun w => (w, f w)) } : State).progWord x =
      if x / size = a / 2 / size then f x else ({ s with prog := m } : State).progWord x := by
  rw [progWord_progSetWords hx, lastWord_map_getD]
  exact if_congr (mem_pageWords hsize a x) rfl rfl

end ProgramWords

/-! ### Program memory and the device after SPM (R326) -/

section Spm

variable {s : State} {m : Memory} {x a : Nat}

/-- No operation of SPM writes a word of another page. -/
theorem spmProg_progWord_outside (act : SpmAction) (v : Word) (hx : x ≤ s.cfg.flashEnd) (hsize : 0 < pageSize s.cfg)
    (outside : x / pageSize s.cfg ≠ a / 2 / pageSize s.cfg) :
    ({ s with prog := spmProg act a v s m } : State).progWord x = ({ s with prog := m } : State).progWord x := by
  cases act with
  | erasePage => exact (progWord_page hx hsize a fun _ => 0xFFFF).trans (if_neg outside)
  | writePage => exact (progWord_page hx hsize a s.pageWord).trans (if_neg outside)
  | writeWord => exact (progWord_progSetWord hx (a / 2) v).trans (if_neg fun h => outside (by rw [h]))
  | fillBuffer | setLockBits | nothing => rfl

/-- A word of the page buffer after an operation of SPM. -/
theorem spmDevice_pageWord (act : SpmAction) (v : Word) (d : Device) :
    ({ s with dev := spmDevice act a v s.cfg d } : State).pageWord x =
      if act = .fillBuffer ∧ x % pageSize s.cfg = a / 2 % pageSize s.cfg then v
      else ({ s with dev := d } : State).pageWord x := by
  cases act with
  | fillBuffer =>
    refine (Memory.wordOf_setWord d.pageBuffer _ _ v (Config.pageBufferByte s.resets)).trans ?_
    exact if_congr (and_iff_right rfl).symm rfl rfl
  | erasePage | writeWord | writePage | setLockBits | nothing => exact (if_neg fun ⟨h, _⟩ => nomatch h).symm

theorem spmDevice_lockBits (act : SpmAction) (v : Word) (c : Config) (d : Device) :
    (spmDevice act a v c d).lockBits = if act = .setLockBits then v else d.lockBits := by
  cases act <;> rfl

/-- Where `SpmOp` has a page size it is the one of the configuration. -/
theorem pageSize_eq {c : Config} {size : Nat}
    (h : c.spmOp = some (.listed size) ∨ c.spmOp = some (.function size)) : pageSize c = size := by
  rcases h with h | h <;> rw [pageSize, h]

theorem spmResult_listed {size : Nat} (form : SpmForm) (h : s.cfg.spmOp = some (.listed size)) :
    spmResult form s = listedSpm form s :=
  spmResult_of_not_function fun _ hf => nomatch h.symm.trans hf

/-- Both forms end in `SpmOp`, Z as the form leaves it, and the PC moved. -/
theorem exec_spmForm {form : SpmForm} {i : Instr} (h : (i, form) ∈ [(Instr.spm, SpmForm.spm), (.spmZInc, .spmZInc)])
    (s : State) : ∃ t, exec i s = .next t ∧ t = { spmOp form s with regs := t.regs, pc := t.pc } ∧ PcPlus s t 1 ∧
      (∀ r, r ∉ [30, 31] → t.reg r = s.reg r) ∧ (t.reg 31).toNat * 256 + (t.reg 30).toNat =
        ((s.reg 31).toNat * 256 + (s.reg 30).toNat + (if i = .spmZInc then 2 else 0)) % 65536 := by
  have pair : (s.pair 30).toNat = (s.reg 31).toNat * 256 + (s.reg 30).toNat := s.pair_toNat 30
  rw [← pair]
  simp only [List.mem_cons, Prod.mk.injEq, List.not_mem_nil, or_false] at h
  obtain ⟨rfl, rfl⟩ | ⟨rfl, rfl⟩ := h
  · refine ⟨_, rfl, rfl, pcPlus_advance_one s _ rfl, fun _ _ => rfl, ?_⟩
    rw [if_neg (by nofun), Nat.add_zero, Nat.mod_eq_of_lt (s.pair 30).isLt]
    exact pair.symm
  · refine ⟨_, rfl, rfl, pcPlus_advance_one s _ rfl, fun r hr => ?_, ?_⟩
    · simp only [List.mem_cons, List.not_mem_nil, or_false, not_or] at hr
      obtain ⟨low, high⟩ := hr
      exact State.setPair_reg_ne (spmOp .spmZInc s) (s.pair 30 + 2) low high
    · rw [if_pos rfl]
      exact ((spmOp .spmZInc s).setPair_z_toNat (s.pair 30 + 2)).trans (BitVec.toNat_add _ _)

end Spm

/-- Settles O52: the words and the device of `SpmOp`, seen through the ending of the two forms. -/
theorem storeProgram : Obligations.StoreProgram := by
  intro s size a controller hsize ha form i hi
  obtain rfl : pageSize s.cfg = size := pageSize_eq controller
  obtain rfl : (spmAddr s).toNat = a := (spmAddr_toNat s).trans ha.symm
  obtain ⟨t, hexec, rest, next, others, z⟩ := exec_spmForm hi s
  obtain ⟨regs, pc, rfl⟩ : ∃ regs pc, t = { spmOp form s with regs := regs, pc := pc } := ⟨_, _, rest⟩
  refine ⟨_, { s with dev := (spmResult form s).dev }, hexec, rfl, next, fun w hw old hold => ?words, ?filled,
    fun w hw => ?buffer, spmDevice_lockBits _ _ _ _, fun _ => rfl, rfl, fun listed => ?listed, ?inputs, others, z,
    fun _ => rfl, rfl⟩
  case words =>
    have before : ({ s with prog := progSetWords s.cfg.flashEnd s.prog (spmResult form s).words } : State).progWord w =
        old := (progWord_progSetWords hw _).trans hold.symm
    change ({ s with prog := spmProg (spmAct form s) _ (s.pair 0) s _ } : State).progWord w = _
    cases spmAct form s with
    | erasePage => rw [← before]; exact progWord_page hw hsize _ fun _ => 0xFFFF
    | writePage => rw [← before]; exact progWord_page hw hsize _ s.pageWord
    | writeWord => rw [← before]; exact progWord_progSetWord hw _ (s.pair 0)
    | fillBuffer | setLockBits | nothing => exact before
  case filled => exact (spmDevice_pageWord (s := s) _ (s.pair 0) _).trans (if_congr (and_iff_left rfl) rfl rfl)
  case buffer => exact (spmDevice_pageWord (s := s) _ (s.pair 0) _).trans (if_neg fun ⟨_, h⟩ => hw h)
  case listed =>
    have result := spmResult_listed form listed
    have noWords : (spmResult form s).words = [] := by rw [result]; rfl
    refine ⟨noWords, fun w hw outside => ?_, fun loc => ?_, ?_⟩
    · refine (spmProg_progWord_outside (s := s) _ _ hw hsize outside).trans ?_
      rw [noWords]
      rfl
    · change ({ s with dev := (spmResult form s).dev } : State).deviceByte loc = _
      rw [result]
      rfl
    · rw [result]
      rfl
  case inputs =>
    obtain ⟨inputs, -⟩ := spmResult_dev form s
    exact inputs

/-! ### IN and OUT (R328, R329) -/

theorem ioRead_pc (A : BitVec 6) (s : State) : (ioRead A s).2.pc = s.pc := by rw [ioRead_snd, State.setHidden_pc]

theorem ioWrite_pc (A : BitVec 6) (v : Byte) (s : State) : (ioWrite A v s).pc = s.pc := by rw [ioWrite_eq]

/-- Settles O53: the access, and the ending of a load or of a store. -/
theorem inOut : Obligations.InOut := fun d _ A s =>
  ⟨⟨_, rfl, loads_advance (Keeps.ioRead A s).control.cfg (ioRead_pc A s) d _ 1⟩,
    ⟨_, rfl, moves_advance (Keeps.ioWrite A _ s).control.cfg (ioWrite_pc A _ s) 1⟩⟩

/-! ### PUSH and POP (R330, R331) -/

section Stack

variable {s u : State}

theorem exec_push_pushed {r : RegIx} (h : push (s.reg r) s = .ok () u) : exec (.push r) s = .next (u.advance 1) := by
  change ((push (s.reg r) s).bind _).outcome = _
  rw [h, Res.ok_bind, Res.outcome_ok]

theorem exec_pop_popped (d : RegIx) {v : Byte} (h : pop s = .ok v u) :
    exec (.pop d) s = .next ((u.setReg d v).advance 1) := by
  change ((pop s).bind _).outcome = _
  rw [h, Res.ok_bind, Res.outcome_ok]

/-- POP is the load at the stack pointer one up. -/
theorem exec_pop (d : RegIx) (s : State) :
    exec (.pop d) s = (loadAt d ((spUp s 1).setWidth 24) 1 { s with sp := spUp s 1 }).outcome := by
  rw [loadAt, BitVec.toNat_setWidth_of_le (by decide)]
  rfl

/-- PUSH, then POP, with SRAM below the stack pointer. -/
theorem exec_push_pop (d r : RegIx) {b : Nat} (hplace : place s.cfg s.sp.toNat = .sram b)
    (hwrap : s.sp = wrapSp s.cfg s.sp) : ∃ t u, exec (.push r) s = .next t ∧ exec (.pop d) t = .next u ∧
      u.reg d = s.reg r ∧ u.sp = s.sp ∧ ∀ i, i ≠ d → u.reg i = s.reg i := by
  have pushed := exec_push_pushed (push_sram (s.reg r) s hplace)
  have back : wrapSp s.cfg (wrapSp s.cfg (s.sp - 1) + 1) = s.sp := by
    rw [wrapSp_add, BitVec.sub_add_cancel, ← hwrap]
  refine ⟨_, _, pushed, exec_pop_popped d (pop_sram _ (b := b) ?_), ?_, back, fun i hi => State.setReg_reg_ne _ _ hi⟩
  · exact (congrArg (fun v : Word => place s.cfg v.toNat) back).trans hplace
  · refine (State.setReg_reg_self _ d _).trans ?_
    exact (s.sramByte_set s.sram (wrapSp s.cfg (s.sp - 1)) b b (s.reg r)).trans (if_pos rfl)

end Stack

/-- Settles O54: the write and the pointer after it, the load at the pointer one up, and one after the other in SRAM. -/
theorem pushPop : Obligations.PushPop := by
  intro d r s
  have address : ((spUp s 1).setWidth 24).toNat = (spUp s 1).toNat := BitVec.toNat_setWidth_of_le (by decide)
  rw [exec_pop, ← address]
  refine ⟨fun h => ?push, fun h => ?pushFault, fun h => ?pop, fun h => ?popFault, fun b => exec_push_pop d r⟩
  case push =>
    obtain ⟨u, hwrite, writes⟩ := memWrite_writable (s.reg r) h
    obtain ⟨kept, pc⟩ := Keeps.memWrite hwrite
    have cfg := kept.control.cfg
    have pushed : push (s.reg r) s = .ok () (u.setSp (u.sp - 1)) := by rw [push, hwrite, Res.ok_bind]
    exact ⟨u, _, writes, exec_push_pushed pushed, rfl, by rw [← cfg]; rfl,
      pcPlus_advance_one s _ (State.advance_pc_congr (u := u.setSp (u.sp - 1)) cfg pc 1)⟩
  case pushFault =>
    change ((push (s.reg r) s).bind _).outcome = _
    rw [push, memWrite_unwritable _ h, Res.stop_bind, Res.stop_bind, Res.outcome_stop]
  case pop =>
    obtain ⟨v, u, t, reads, hload, loads⟩ :=
      loadAt_readable (s := s) (x := { s with sp := spUp s 1 }) (n := 1) d rfl rfl h
    exact ⟨v, u, t, reads, by rw [hload, Res.outcome_ok], loads⟩
  case popFault => rw [loadAt_unreadable (s := s) (x := { s with sp := spUp s 1 }) d rfl h, Res.outcome_stop]

/-! ### XCH, LAS, LAC and LAT (R332 to R335) -/

/-- Flash that can be read and not written: the read leaves the state, and the write is the fault. -/
theorem memRead_of_unwritable {a : Nat} {s : State} (hw : writable s a = false) (hr : readable s a = true) :
    (∃ v, memRead a s = .ok v s) ∧ accessFault s a = .dataAccess a := by
  unfold writable at hw
  unfold readable at hr
  unfold memRead accessFault
  cases hp : place s.cfg a with
  | flash b =>
    simp only [hp, decide_eq_true_eq] at hr
    exact ⟨⟨_, progLoad_within hr⟩, if_neg (Nat.not_lt.2 hr)⟩
  | unmapped => simp [hp] at hr
  | reg | io | extIo | sram => simp [hp] at hw

/-- An instruction that is an exchange, with the byte it writes as the statement has it. -/
theorem exchangeRule_exchangeAt {mk : RegIx → Instr} {f g : Byte → Byte → Byte}
    (hexec : ∀ d s, exec (mk d) s = (exchangeAt f d s).outcome) (hfun : ∀ rd old, f rd old = g rd old) :
    ExchangeRule mk g := by
  obtain rfl : f = g := funext₂ hfun
  intro d s
  rw [hexec, exchangeAt, ptrGet_toNat]
  refine ⟨fun h => ?writable, fun h => ?unwritable⟩
  case writable =>
    obtain ⟨old, u, hread, reads⟩ := memRead_readable (readable_of_writable h)
    have cfg_u : u.cfg = s.cfg := (Keeps.memRead hread).control.cfg
    obtain ⟨w, hwrite, writes⟩ := memWrite_writable (f (s.reg d) old) ((writable_congr cfg_u _).trans h)
    obtain ⟨kept, pc_w⟩ := Keeps.memWrite hwrite
    refine ⟨old, u, w, _, reads, writes, by rw [hread, Res.ok_bind, hwrite, Res.ok_bind, Res.outcome_ok], ?_⟩
    exact loads_advance (kept.control.cfg.trans cfg_u) (pc_w.trans (memRead_pc hread)) d old 1
  case unwritable =>
    cases hr : readable s (pointer .z s) with
    | false => rw [memRead_unreadable hr, Res.stop_bind, Res.outcome_stop]
    | true =>
      obtain ⟨⟨v, hread⟩, fault⟩ := memRead_of_unwritable h hr
      rw [hread, Res.ok_bind, memWrite_unwritable _ h, Res.stop_bind, Res.outcome_stop, fault]

theorem byte_eq_ofNat {v : Byte} {n : Nat} (h : v.toNat = n) : v = BitVec.ofNat 8 n := by
  rw [← h, BitVec.ofNat_toNat, BitVec.setWidth_eq]

/-- Settles O55: the same exchange with four functions, which on numbers are those of the statement. -/
theorem exchanges : Obligations.Exchanges := by
  refine ⟨?xch, ?las, ?lac, ?lat⟩
  case xch => exact exchangeRule_exchangeAt (fun _ _ => rfl) fun _ _ => rfl
  case las => exact exchangeRule_exchangeAt (fun _ _ => rfl) fun rd old => byte_eq_ofNat (BitVec.toNat_or rd old)
  case lac =>
    refine exchangeRule_exchangeAt (fun _ _ => rfl) fun rd old => byte_eq_ofNat ?_
    rw [BitVec.toNat_and, BitVec.toNat_not]
  case lat => exact exchangeRule_exchangeAt (fun _ _ => rfl) fun rd old => byte_eq_ofNat (BitVec.toNat_xor rd old)

end Sys2Proof.Machine

namespace Sys2Proof.Machine

/-! SUPPORT. The statements of 44_bit_and_bit_test.md: shifts and rotates, 16-bit shifts, the flag instructions, single
bits of registers and I/O locations. -/

open Sys2Proof

/-! ### Shifts and rotates (R360 to R364) -/

/-- A byte shifted left, with the carry shifted in. -/
theorem rotatedLeft_toNat (x : Byte) (c : Bool) :
    (x <<< 1 ||| (BitVec.ofBool c).setWidth 8).toNat = (x.toNat * 2 + c.toNat) % 256 := by
  rw [← addBytes_self, addBytes_self_toNat, Nat.mul_comm]

theorem shiftRight_one_toNat (x : Byte) : (x >>> 1).toNat = x.toNat / 2 := BitVec.toNat_ushiftRight x 1

/-- A byte shifted right, with a bit shifted in. -/
theorem rotatedRight_toNat (x : Byte) (c : Bool) :
    ((BitVec.ofBool c).setWidth 8 <<< 7 ||| x >>> 1).toNat = c.toNat * 128 + x.toNat / 2 := by
  have hx := x.isLt
  rw [BitVec.toNat_or, shiftRight_one_toNat]
  cases c with
  | false => simp
  | true => exact (Nat.two_pow_add_eq_or_of_lt (i := 7) (by omega) 1).symm

/-- ASR shifts in bit 7 where ROR shifts in the carry. -/
theorem and_80_eq_bit7 (x : Byte) : x &&& 0x80 = (BitVec.ofBool (getBit x 7)).setWidth 8 <<< 7 := by
  revert x; decide

/-- A byte with its sign shifted in is half of it, rounded down. -/
theorem toInt_of_signShiftedIn {x res : Byte} (h : res.toNat = (getBit x 7).toNat * 128 + x.toNat / 2) :
    res.toInt = x.toInt / 2 := by
  have hx := x.isLt
  rw [getBit_7, Bool.toNat, Bool.cond_decide] at h
  rw [byte_toInt, byte_toInt]
  split <;> split <;> split at h <;> omega

theorem shiftRule_shiftFlags (sreg res : Byte) (c : Bool) : ShiftRule c res (shiftFlags sreg res c) :=
  have bits := shiftFlags_bits sreg res c
  { carry := bits flagC
    negative := bits flagN
    zero := bits flagZ
    overflow := (bits flagV).trans (congrArg₂ xor (bits flagN).symm (bits flagC).symm)
    sign := (bits flagS).trans (congrArg₂ xor (bits flagN).symm (bits flagV).symm) }

theorem shiftRule_shiftLeftFlags (sreg old res : Byte) :
    ShiftRule (getBit old 7) res (shiftLeftFlags sreg old res) :=
  have bits := shiftLeftFlags_bits sreg old res
  have rule := shiftRule_shiftFlags sreg res (getBit old 7)
  { carry := (bits flagC).trans rule.carry
    negative := (bits flagN).trans rule.negative
    zero := (bits flagZ).trans rule.zero
    overflow := (bits flagV).trans (rule.overflow.trans (congrArg₂ xor (bits flagN).symm (bits flagC).symm))
    sign := (bits flagS).trans (rule.sign.trans (congrArg₂ xor (bits flagN).symm (bits flagV).symm)) }

section Endings

variable {i : Instr} {s : State} {d : RegIx} {res : Byte} {n : Nat}

/-- An instruction that ends in a byte shifted left. -/
theorem exec_shiftLeft (hres : res.toNat = n)
    (h : exec i s = .next (s.writeResult d res (shiftLeftFlags s.sreg (s.reg d) res))) :
    ∃ t, exec i s = .next t ∧ (t.reg d).toNat = n ∧ ShiftRule (getBit (s.reg d) 7) (t.reg d) t.sreg ∧
      t.flag flagH = getBit (s.reg d) 3 ∧ FlagsKept [flagH, flagS, flagV, flagN, flagZ, flagC] s.sreg t.sreg ∧
      OnlyRegisters s t [d] ∧ PcPlus s t 1 := by
  refine ⟨_, h, ?_, ?_, shiftLeftFlags_bits s.sreg (s.reg d) res flagH, shiftLeftFlags_kept _ _ _,
    onlyRegisters_writeResult s d _ _, pcPlus_writeResult s d _ _⟩
  all_goals rw [State.writeResult_reg_self]
  · exact hres
  · exact shiftRule_shiftLeftFlags _ _ _

/-- An instruction that ends in a byte shifted right. -/
theorem exec_shiftRight (hres : res.toNat = n)
    (h : exec i s = .next (s.writeResult d res (shiftFlags s.sreg res (getBit (s.reg d) 0)))) :
    ∃ t, exec i s = .next t ∧ (t.reg d).toNat = n ∧ ShiftRule (getBit (s.reg d) 0) (t.reg d) t.sreg ∧
      FlagsKept [flagS, flagV, flagN, flagZ, flagC] s.sreg t.sreg ∧ OnlyRegisters s t [d] ∧ PcPlus s t 1 := by
  refine ⟨_, h, ?_, ?_, shiftFlags_kept _ _ _, onlyRegisters_writeResult s d _ _, pcPlus_writeResult s d _ _⟩
  all_goals rw [State.writeResult_reg_self]
  · exact hres
  · exact shiftRule_shiftFlags _ _ _

end Endings

/-- Settles O56: LSL and ROL end in one shift to the left, the others in one to the right, which differ in the bit
shifted in: zero, the carry, or for ASR the sign. -/
theorem shifts : Obligations.Shifts := by
  rintro d s a c rfl rfl
  refine ⟨exec_shiftLeft ?lsl rfl, exec_shiftLeft (rotatedLeft_toNat _ _) rfl, ?lsr,
    exec_shiftRight (rotatedRight_toNat _ _) rfl, ?asr⟩
  case lsl => rw [shiftLeft_one_toNat, Nat.mul_comm]
  case lsr =>
    obtain ⟨t, ht, value, rule, frame⟩ := exec_shiftRight (i := .lsr d) (s := s) (shiftRight_one_toNat _) rfl
    have hx := (s.reg d).isLt
    refine ⟨t, ht, value, rule, rule.negative.trans ?_, frame⟩
    rw [getBit_7, value]
    exact decide_eq_false (by omega)
  case asr =>
    have signShiftedIn : (s.reg d &&& 0x80 ||| s.reg d >>> 1).toNat =
        (getBit (s.reg d) 7).toNat * 128 + (s.reg d).toNat / 2 := by
      rw [and_80_eq_bit7, rotatedRight_toNat]
    obtain ⟨t, ht, value, frame⟩ := exec_shiftRight (i := .asr d) (s := s) signShiftedIn rfl
    exact ⟨t, ht, toInt_of_signShiftedIn value, frame⟩

/-! ### 16-bit shifts (R388 (d)) -/

theorem getLsbD_15_append (hi lo : Byte) : (hi ++ lo).getLsbD 15 = getBit hi 7 := BitVec.getLsbD_append

theorem getLsbD_0_append (hi lo : Byte) : (hi ++ lo).getLsbD 0 = getBit lo 0 := BitVec.getLsbD_append

/-- The signed reading of two bytes. -/
theorem append_toInt (hi lo : Byte) : (hi ++ lo).toInt = hi.toInt * 256 + lo.toNat := by
  have hhi := hi.isLt; have hlo := lo.isLt
  rw [BitVec.toInt_eq_toNat_cond, append_toNat, byte_toInt]
  split <;> split <;> omega

theorem getBit_7_toNat (v : Byte) : (getBit v 7).toNat = v.toNat / 128 := by
  have hv := v.isLt
  rw [getBit_7, Bool.toNat, Bool.cond_decide]
  split <;> omega

theorem getBit_0_toNat (v : Byte) : (getBit v 0).toNat = v.toNat % 2 := by
  rw [getBit_0, Bool.toNat, Bool.cond_decide]
  split <;> omega

/-- A byte and its signed reading have the same lowest bit. -/
theorem byte_toInt_mod_two (v : Byte) : v.toInt % 2 = v.toNat % 2 := by
  rw [byte_toInt]
  split <;> omega

/-- ROR of the low byte after a shift of the high byte `hi`, whose bit 0 is in C. -/
theorem exec_ror_low {hi : Byte} {t : State} (carry : getBit t.sreg flagC = getBit hi 0) (l : RegIx) :
    ∃ u, exec (.ror l) t = .next u ∧ (u.reg l).toNat = hi.toNat % 2 * 128 + (t.reg l).toNat / 2 ∧
      u.flag flagC = (hi ++ t.reg l).getLsbD 0 ∧ ∀ j, j ∉ [l] → u.reg j = t.reg j := by
  obtain ⟨-, -, -, ⟨u, ror, low, rule, -, frame, -⟩, -⟩ := shifts l t _ _ rfl rfl
  have bit : (t.flag flagC).toNat = hi.toNat % 2 := (congrArg Bool.toNat carry).trans (getBit_0_toNat hi)
  rw [bit] at low
  exact ⟨u, ror, low, rule.carry.trans (getLsbD_0_append hi _).symm, frame.regs⟩

/-- Settles O57: the second instruction shifts in the bit that the first one left in C. -/
theorem wordShifts : Obligations.WordShifts := by
  rintro l h s W hne rfl
  have hh : h ∉ [l] := by simpa using hne.symm
  have hl : l ∉ [h] := by simpa using hne
  have lt := (s.reg l).isLt
  refine ⟨?left, ?right, ?signed⟩
  case left =>
    obtain ⟨⟨t, lsl, low, rule, -, -, frame, -⟩, -⟩ := shifts l s _ _ rfl rfl
    obtain ⟨-, ⟨u, rol, high, last, -, -, framed, -⟩, -⟩ := shifts h t _ _ rfl rfl
    have bit : (t.flag flagC).toNat = (s.reg l).toNat / 128 :=
      (congrArg Bool.toNat rule.carry).trans (getBit_7_toNat _)
    rw [frame.regs h hh] at high last
    refine ⟨t, u, lsl, rol, ?_, last.carry.trans (getLsbD_15_append _ _).symm⟩
    rw [append_toNat, append_toNat, framed.regs l hl, low, high, bit]
    omega
  case right =>
    obtain ⟨-, -, ⟨t, lsr, high, rule, -, -, frame, -⟩, -⟩ := shifts h s _ _ rfl rfl
    obtain ⟨u, ror, low, last, kept⟩ := exec_ror_low rule.carry l
    rw [frame.regs l hl] at low last
    refine ⟨t, u, lsr, ror, ?_, last⟩
    rw [append_toNat, append_toNat, kept h hh, low, high]
    omega
  case signed =>
    obtain ⟨-, -, -, -, ⟨t, asr, high, rule, -, frame, -⟩⟩ := shifts h s _ _ rfl rfl
    obtain ⟨u, ror, low, last, kept⟩ := exec_ror_low rule.carry l
    rw [frame.regs l hl] at low last
    refine ⟨t, u, asr, ror, ?_, last⟩
    have parity := byte_toInt_mod_two (s.reg h)
    rw [append_toInt, append_toInt, kept h hh, low, high]
    omega

/-! ### Flag instructions (R366, R367, R372 to R387) -/

/-- The sixteen single-flag instructions with their flag and the value it gets. -/
def flagTable : List (Instr × BitIx × Bool) :=
  [(.sec, flagC, true), (.clc, flagC, false), (.sen, flagN, true), (.cln, flagN, false), (.sez, flagZ, true),
   (.clz, flagZ, false), (.sei, flagI, true), (.cli, flagI, false), (.ses, flagS, true), (.cls, flagS, false),
   (.sev, flagV, true), (.clv, flagV, false), (.set, flagT, true), (.clt, flagT, false), (.seh, flagH, true),
   (.clh, flagH, false)]

/-- Each is another name of BSET or BCLR. -/
theorem canonical_of_mem_flagTable {i : Instr} {n : BitIx} {v : Bool} (h : (i, n, v) ∈ flagTable) :
    i.canonical = if v then .bset n else .bclr n :=
  (by decide : ∀ e ∈ flagTable, e.1.canonical = if e.2.2 then .bset e.2.1 else .bclr e.2.1) _ h

/-- The ending of BSET (`v` true) and of BCLR. -/
theorem exec_bset_bclr (n : BitIx) (v : Bool) (s : State) : exec (if v then .bset n else .bclr n) s =
    .next (((s.setSreg (putBit s.sreg n v)).inhibitIf (decide (n = flagI) && v)).advance 1) := by
  cases v with
  | false => rw [Bool.and_false]; rfl
  | true => rw [Bool.and_true]; rfl

theorem State.inhibitIf_eq (s : State) (cond : Bool) :
    s.inhibitIf cond = { s with irqInhibit := s.irqInhibit || cond } := by
  cases cond with
  | false => rw [Bool.or_false]; rfl
  | true => rw [Bool.or_true]; rfl

/-- Settles O58: each means BSET or BCLR of its flag, and IrqInhibit is set at most. -/
theorem flagInstructions : Obligations.FlagInstructions := by
  intro n v i s hi
  have canonical : i.canonical = if v then .bset n else .bclr n := by
    rcases hi with ⟨rfl, rfl⟩ | ⟨rfl, rfl⟩ | h
    · rfl
    · rfl
    · exact canonical_of_mem_flagTable h
  rw [aliasMeansCanonical, canonical, exec_bset_bclr, State.inhibitIf_eq]
  exact ⟨_, rfl, getLsbD_putBit s.sreg n v, putBit_kept s.sreg n v, fun _ => rfl,
    memoryKept_of_eq rfl rfl rfl rfl, rfl, rfl, pcPlus_advance_one s _ rfl⟩

/-! ### Single bits (R368 to R371) -/

/-- Every bit of a byte after one is written. -/
theorem getLsbD_putBit_eq_ite (x : Byte) (b : BitIx) (v : Bool) (c : BitIx) :
    (putBit x b v).getLsbD c.val = if c = b then v else x.getLsbD c.val :=
  getBit_putBit x b c v

section IoBits

variable {A : BitVec 5} {s : State} (v : Bool) (b : BitIx)

/-- SBI and CBI at a CPU register write back the byte that was read there, with the bit. -/
theorem putIoBit_eq_ioWrite {r : CpuReg} (hr : cpuRegAt s.cfg (lowIo A) = some r) :
    putIoBit v A b s = ioWrite (lowIo A) (putBit (ioRead (lowIo A) s).1 b v) s := by
  rw [putIoBit_cpu v b hr, ioWrite_cpu _ hr, ioRead_cpu hr]

/-- SBI and CBI at an external device are its hooks. -/
theorem putIoBit_eq_setHidden (hr : cpuRegAt s.cfg (lowIo A) = none) (hext : s.cfg.device = .external) :
    putIoBit v A b s =
      s.setHidden (if v then Config.deviceSetBit A b s.dev.hidden else Config.deviceClrBit A b s.dev.hidden) := by
  cases v <;>
    simp only [putIoBit, setIoBit, clearIoBit, devSetBit, devClrBit, hr, hext, Bool.false_eq_true, if_true, if_false]

end IoBits

/-- Settles O59: BST and BLD write one bit of SREG or of a register; SBI and CBI write the location back whole, or leave
it to the hook. -/
theorem bitTransfers : Obligations.BitTransfers := by
  intro d b A s
  refine ⟨?bst, ?bld, fun v => ⟨_, exec_sbi_cbi v A b s, fun r hr => ?cpu, fun hr href => ?reference,
    fun hr hext => ?external⟩⟩
  case bst =>
    exact ⟨_, rfl, getLsbD_putBit s.sreg flagT (getBit (s.reg d) b), putBit_kept _ _ _, onlySreg_setSreg s _,
      pcPlus_advance_one _ _ rfl⟩
  case bld =>
    obtain ⟨t, ht, value, frame⟩ := exec_setReg (i := .bld d b) (s := s) rfl
    exact ⟨t, ht, fun c => by rw [value, getLsbD_putBit_eq_ite], frame⟩
  case cpu =>
    refine ⟨putBit (ioRead (lowIo A) s).1 b v, getLsbD_putBit_eq_ite _ b v, ?_⟩
    rw [putIoBit_eq_ioWrite v b hr]
    exact moves_advance (Keeps.ioWrite _ _ s).control.cfg (ioWrite_pc _ _ s) 1
  case reference =>
    rw [putIoBit_reference v b hr href]
    have written := s.setDeviceByte_deviceByte (.io (lowIo A)) (v := putBit (s.deviceByte (.io (lowIo A))) b v)
    refine ⟨fun c => ?bits, fun loc hloc => (written loc).trans (if_neg hloc), rfl, pcPlus_advance_one s _ rfl⟩
    case bits =>
      rw [← getLsbD_putBit_eq_ite]
      exact congrArg (BitVec.getLsbD · c.val) ((written _).trans (if_pos rfl))
  case external =>
    rw [putIoBit_eq_setHidden v b hr hext]
    exact moves_advance rfl rfl 1

end Sys2Proof.Machine

namespace Sys2Proof.Machine

/-! SUPPORT. The statements of 45_mcu_control.md: BREAK, NOP, SLEEP and WDR, and which instruction may change the
control state. -/

open Sys2Proof

/-! ### BREAK, NOP, SLEEP and WDR (R420 to R423) -/

/-- Only the run state depends on the condition of SLEEP and BREAK. -/
theorem State.advance_run_ite (s : State) (cond : Bool) (r : RunState) :
    (if cond then { s.advance 1 with run := r } else s.advance 1) =
      { s.advance 1 with run := if cond then r else s.run } := by
  cases cond <;> rfl

theorem exec_sleep (s : State) :
    exec .sleep s = .next { s.advance 1 with run := if devSleepEnabled s then .sleeping else s.run } :=
  congrArg Host.Outcome.next (s.advance_run_ite (devSleepEnabled s) .sleeping)

theorem exec_brk (s : State) :
    exec .brk s = .next { s.advance 1 with run := if s.cfg.ocdEnabled then .stopped else s.run } :=
  congrArg Host.Outcome.next (s.advance_run_ite s.cfg.ocdEnabled .stopped)

/-- The watchdog hook changes the device only. -/
theorem devWdr_eq (s : State) : devWdr s = { s with dev := (devWdr s).dev } := by
  unfold devWdr
  split <;> rfl

theorem exec_wdr (s : State) : exec .wdr s = .next ({ s with dev := (devWdr s).dev }.advance 1) :=
  congrArg (fun u : State => Host.Outcome.next (u.advance 1)) (devWdr_eq s)

/-- Settles O60: each ends one word on, with the one field it may change beside the PC. -/
theorem mcuControl : Obligations.McuControl := by
  intro s
  refine ⟨?nop, ?wdr, ?sleep, ?brk⟩
  case nop => exact ⟨_, rfl, onlyPc_setPc s _, pcPlus_advance_one s _ rfl⟩
  case wdr => exact ⟨_, exec_wdr s, rfl, rfl, pcPlus_advance_one s _ rfl⟩
  case sleep => exact ⟨_, exec_sleep s, rfl, pcPlus_advance_one s _ rfl, rfl⟩
  case brk => exact ⟨_, exec_brk s, rfl, pcPlus_advance_one s _ rfl, rfl⟩

/-! ### What an instruction can do to the control state -/

theorem ControlKept.setElpmAddr (s : State) (v : BitVec 24) : ControlKept s (setElpmAddr v s) :=
  ⟨rfl, rfl, rfl, rfl, rfl, rfl, rfl, rfl, rfl, rfl, rfl⟩

theorem controlKept_elpmZInc {d : RegIx} {s t : State} (h : exec (.elpmZInc d) s = .next t) : ControlKept s t := by
  rw [execElpmZInc_next h]
  exact ((Keeps.setReg s d _).control.trans (.setElpmAddr _ _)).trans (Keeps.advance _ 1).control

/-- The ending of SLEEP and BREAK: the run state, and a change of PC. -/
theorem controlKept_advance_run (s : State) (r : RunState) :
    ControlKept { s with run := r } { s.advance 1 with run := r } :=
  (Keeps.advance { s with run := r } 1).control

/-- The ending of SEI and BSET: the inhibit, and a change of SREG and PC. -/
theorem controlKept_inhibitIf (s : State) (sreg : Byte) (cond : Bool) :
    ControlKept { s with irqInhibit := s.irqInhibit || cond } (((s.setSreg sreg).inhibitIf cond).advance 1) := by
  rw [State.inhibitIf_eq]
  exact ((Keeps.setSreg { s with irqInhibit := s.irqInhibit || cond } sreg).trans (.advance _ 1)).control

/-- The control state after an instruction is as before, but for the run state after SLEEP and BREAK, the inhibit after
SEI and BSET 7, and what `SpmOp` leaves after the two forms of SPM. -/
theorem exec_control {i : Instr} {s t : State} (h : exec i s = .next t) :
    ControlKept s t ∨
    ((i = .sleep ∨ i = .brk) ∧ ∃ r, ControlKept { s with run := r } t) ∨
    ((i = .sei ∨ i = .bset 7) ∧ ∃ b, ControlKept { s with irqInhibit := b } t) ∨
    ((i = .spm ∨ i = .spmZInc) ∧ ∃ form, ControlKept (spmOp form s) t) := by
  cases hi : hasControlEffect i with
  | false => exact .inl (exec_ends h hi).keeps.control
  | true =>
    cases i with
    | elpmZInc d => exact .inl (controlKept_elpmZInc h)
    | sleep =>
      rw [exec_sleep] at h
      cases h
      exact .inr (.inl ⟨.inl rfl, _, controlKept_advance_run s _⟩)
    | brk =>
      rw [exec_brk] at h
      cases h
      exact .inr (.inl ⟨.inr rfl, _, controlKept_advance_run s _⟩)
    | sei =>
      cases h
      exact .inr (.inr (.inl ⟨.inl rfl, _, controlKept_inhibitIf s _ true⟩))
    | bset n =>
      cases h
      have kept := controlKept_inhibitIf s (putBit s.sreg n true) (decide (n = flagI))
      by_cases hn : n = flagI
      · exact .inr (.inr (.inl ⟨.inr (congrArg Instr.bset hn), _, kept⟩))
      · rw [decide_eq_false hn, Bool.or_false] at kept
        rw [decide_eq_false hn]
        exact .inl kept
    | spm =>
      cases h
      exact .inr (.inr (.inr ⟨.inl rfl, .spm, (Keeps.advance _ 1).control⟩))
    | spmZInc =>
      cases h
      exact .inr (.inr (.inr ⟨.inr rfl, .spmZInc, ((Keeps.setPair _ 30 _).trans (.advance _ 1)).control⟩))
    | _ => cases hi

/-- A controller that is not the parameter function keeps the requests, the sleep condition and the reset request
(R326; log 11). -/
theorem spmOp_requests (form : SpmForm) {s : State} (h : ∀ size, s.cfg.spmOp ≠ some (.function size)) :
    (spmOp form s).dev.requests = s.dev.requests ∧ (spmOp form s).dev.sleepEnabled = s.dev.sleepEnabled ∧
      (spmOp form s).dev.resetRequested = s.dev.resetRequested := by
  have listed : (spmResult form s).dev = (listedSpm form s).dev := by rw [spmResult_of_not_function h]
  exact ⟨(congrArg Device.requests listed :), (congrArg Device.sleepEnabled listed :),
    (congrArg Device.resetRequested listed :)⟩

/-- Settles O13, by what an instruction can do to the control state: each exception is ruled out by the hypothesis that
names its instructions, or, for the requests after SPM, by the controller. -/
theorem controlStateFrame : Obligations.ControlStateFrame := by
  intro i s t h
  rcases exec_control h with k | ⟨hi, r, k⟩ | ⟨hi, b, k⟩ | ⟨hi, form, k⟩
  · exact ⟨k.cfg, k.resets, fun _ _ => k.run, fun _ _ => k.irqInhibit,
      fun _ => ⟨k.requests, k.sleepEnabled, k.resetRequested⟩, fun _ _ => ⟨k.pageBuffer, k.lockBits⟩⟩
  · exact ⟨k.cfg, k.resets, fun hsleep hbrk => absurd hi (not_or.2 ⟨hsleep, hbrk⟩), fun _ _ => k.irqInhibit,
      fun _ => ⟨k.requests, k.sleepEnabled, k.resetRequested⟩, fun _ _ => ⟨k.pageBuffer, k.lockBits⟩⟩
  · exact ⟨k.cfg, k.resets, fun _ _ => k.run, fun hsei hbset => absurd hi (not_or.2 ⟨hsei, hbset⟩),
      fun _ => ⟨k.requests, k.sleepEnabled, k.resetRequested⟩, fun _ _ => ⟨k.pageBuffer, k.lockBits⟩⟩
  · refine ⟨k.cfg, k.resets, fun _ _ => k.run, fun _ _ => k.irqInhibit, fun hc => ?requests,
      fun hspm hinc => absurd hi (not_or.2 ⟨hspm, hinc⟩)⟩
    case requests =>
      obtain ⟨requests, sleepEnabled, resetRequested⟩ :=
        spmOp_requests form (hc.resolve_right fun hne => absurd hi (not_or.2 hne))
      exact ⟨k.requests.trans requests, k.sleepEnabled.trans sleepEnabled, k.resetRequested.trans resetRequested⟩

end Sys2Proof.Machine

namespace Sys2Proof.Machine

/-! SUPPORT. The statements of 60_exceptions.md: the fetch and its faults, interrupt entry, the check at an instruction
boundary, and the steps of a core that is not running. -/

open Sys2Proof

/-! ### Decoding the first word alone -/

/-- An instruction of one word is the same whatever word comes after it: both readings are its own canonical form, and
that is read back from its bytes. -/
theorem decode_oneWord_congr {core : Core} {w a : Word} {i : Instr} (h : decode core w a = some i)
    (one : isTwoWord w = false) (b : Word) : decode core w b = some i := by
  obtain ⟨j, hj⟩ : ∃ j, decode core w b = some j := by
    rw [← Option.isSome_iff_exists, decode_isSome_congr core w b a, h]
    rfl
  obtain ⟨wfi, encodablei, canonicali, wordsi⟩ := encodeDecode core w a i h
  obtain ⟨wfj, encodablej, canonicalj, wordsj⟩ := encodeDecode core w b j hj
  rw [one, if_neg Bool.false_ne_true] at wordsi wordsj
  have readi := decodeEncode core i [] wfi encodablei
  have readj := decodeEncode core j [] wfj encodablej
  have bytes : encodeBytes j = encodeBytes i := by rw [encodeBytes, encodeBytes, wordsi, wordsj]
  rw [canonicali] at readi
  rw [canonicalj, bytes, readi] at readj
  rw [hj, (Decoded.instr.inj readj).1]

/-- A device that has the instruction of two words has that of the first word with any other second word. -/
theorem decode_admitted_congr {c : Config} {w a : Word} {i : Instr} (h : decode c.core w a = some i)
    (ha : admits c i = true) (b : Word) : ∃ j, decode c.core w b = some j ∧ admits c j = true := by
  have e := decode_admits c.core c w b a
  rw [h, Option.map_some, ha, Option.map_eq_some_iff] at e
  exact e

/-! ### The fetch, check by check (R433) -/

section Fetch

variable {s : State} {i : Instr}

/-- The first check: the PC. -/
theorem fetch_pcAbove (above : s.cfg.flashEnd < s.pc.toNat) : fetch s = .stop (.fetchOutOfRange s.pc.toNat) := by
  rw [fetch, progRead_above above]

/-- The second check: the first word names an instruction the device has. -/
theorem fetch_reserved (within : s.pc.toNat ≤ s.cfg.flashEnd)
    (h : ∀ i, decode s.cfg.core (s.progWord s.pc.toNat) 0 = some i → admits s.cfg i = false) :
    fetch s = .stop (.reservedOpcode s.pc (s.progWord s.pc.toNat)) := by
  rw [fetch, progRead_within within]
  cases hd : decode s.cfg.core (s.progWord s.pc.toNat) 0 with
  | none => simp only [hd]
  | some i => simp only [hd, h i hd, Bool.false_eq_true, if_false]

/-- The third check: the place of the second word. -/
theorem fetch_secondAbove (within : s.pc.toNat ≤ s.cfg.flashEnd)
    (hd : decode s.cfg.core (s.progWord s.pc.toNat) 0 = some i) (ha : admits s.cfg i = true)
    (two : isTwoWord (s.progWord s.pc.toNat) = true) (above : s.cfg.flashEnd < nextWord s) :
    fetch s = .stop (.fetchOutOfRange (nextWord s)) := by
  rw [← pcPlus_one_toNat] at above ⊢
  simp only [fetch, progRead_within within, hd, ha, two, progRead_above above, if_true]

/-- The fetch that passes the checks answers the instruction the words decode to. -/
theorem fetch_decoded (within : s.pc.toNat ≤ s.cfg.flashEnd)
    (hd : decode s.cfg.core (s.progWord s.pc.toNat) (s.progWord (s.pcPlus 1).toNat) = some i)
    (ha : admits s.cfg i = true)
    (second : isTwoWord (s.progWord s.pc.toNat) = true → (s.pcPlus 1).toNat ≤ s.cfg.flashEnd) :
    fetch s = .instr (s.progWord s.pc.toNat) i := by
  cases two : isTwoWord (s.progWord s.pc.toNat) with
  | false =>
    have first := decode_oneWord_congr hd two 0
    simp only [fetch, progRead_within within, first, ha, two, Bool.false_eq_true, if_false, if_true]
  | true =>
    obtain ⟨j, first, hj⟩ := decode_admitted_congr hd ha 0
    simp only [fetch, progRead_within within, first, hj, two, progRead_within (second two), hd, if_true]

/-- A word that was read is the one at the address. -/
theorem progRead_eq_some {a : Nat} {v : Word} (h : progRead s a = some v) : v = s.progWord a := by
  unfold progRead at h
  split at h <;> cases h
  rfl

/-- The word the fetch answers is the one at the PC. -/
theorem fetch_word {w : Word} (h : fetch s = .instr w i) : w = s.progWord s.pc.toNat := by
  unfold fetch at h
  split at h
  · cases h
  · next v hv =>
    rw [← progRead_eq_some hv]
    split at h
    · cases h
    · split at h
      · split at h
        · split at h
          · cases h
          · split at h <;> cases h
            rfl
        · cases h
          rfl
      · cases h

end Fetch

/-! ### A step by the run state (R447) -/

section Step

variable {s : State}

theorem step_fetchStop {f : FaultInfo} (running : s.run = .running) (h : fetch s = .stop f) :
    step s = .fault (raise f s) := by
  simp only [step, running, h]

theorem step_fetchInstr {w : Word} {i : Instr} (running : s.run = .running) (h : fetch s = .instr w i) :
    step s = finish (decide (w = seiWord)) (exec i s) := by
  simp only [step, running, h]

theorem step_stopped (h : s.run = .stopped) : step s = .refused .stoppedMode := by
  simp only [step, h]

theorem step_faulted {f : FaultInfo} (h : s.run = .faulted f) : step s = .fault (raise f s) := by
  simp only [step, h]

theorem step_sleeping (h : s.run = .sleeping) : step s = (boundary false s).outcome := by
  simp only [step, h]

/-- A sleeping core whose check goes through. -/
theorem step_sleeping_ok {t : State} (h : s.run = .sleeping) (hb : boundary false s = .ok () t) : step s = .next t := by
  rw [step_sleeping h, hb, Res.outcome_ok]

end Step

/-- Settles O7: the fetch answers the instruction, and the step is its meaning with the boundary check after it. -/
theorem stepRunsDecoded : Obligations.StepRunsDecoded := by
  intro s i running within hd ha second
  rw [step_fetchInstr running (fetch_decoded within hd ha second)]
  cases exec i s <;> rfl

/-- Settles O8: each check of the fetch that fails is the fault of the step. -/
theorem fetchChecks : Obligations.FetchChecks := fun _ running =>
  ⟨fun above => step_fetchStop running (fetch_pcAbove above),
    fun within h => step_fetchStop running (fetch_reserved within h),
    fun _ within hd ha two above => step_fetchStop running (fetch_secondAbove within hd ha two above)⟩

/-! ### Interrupt entry (R436) -/

/-- Where the return address is pushed, the entry goes through. -/
theorem interruptEntry_pushed (r : Request) {s u : State} (h : pushPc s.pc s = .ok () u) :
    interruptEntry r s = .ok () { devAck r.source u with
      pc := wrapPc u.cfg r.vector, sreg := putBit u.sreg flagI false, run := .running } := by
  rw [interruptEntry, h, Res.ok_bind]
  simp only [devAck, State.setPc]
  cases u.cfg.device <;> rfl

/-- Where the push faults, the entry does. -/
theorem interruptEntry_stop (r : Request) {s u : State} {f : FaultInfo} (h : pushPc s.pc s = .stop f u) :
    interruptEntry r s = .stop f u := by
  rw [interruptEntry, h, Res.stop_bind]

/-- The core runs after an interrupt entry. -/
theorem interruptEntry_run {r : Request} {s t : State} (h : interruptEntry r s = .ok () t) : t.run = .running := by
  obtain ⟨u, -, rfl⟩ := interruptEntry_ok h
  rfl

/-- An entry keeps the inhibit. -/
theorem interruptEntry_irqInhibit {r : Request} {s t : State} (h : interruptEntry r s = .ok () t) :
    t.irqInhibit = s.irqInhibit := by
  obtain ⟨u, hpush, rfl⟩ := interruptEntry_ok h
  have ack : (devAck r.source u).irqInhibit = u.irqInhibit := by rw [devAck_eq]
  exact ack.trans (Keeps.pushPc hpush).1.control.irqInhibit

/-- The acknowledgement takes its device from the device. -/
theorem devAck_dev_congr (source : Nat) {s u : State} (cfg : u.cfg = s.cfg) (dev : u.dev = s.dev) :
    (devAck source u).dev = (devAck source s).dev := by
  rw [devAck, devAck, State.setHidden, State.setHidden, cfg, dev]
  split <;> rfl

theorem getBit_putBit_self (sreg : Byte) (i : BitIx) (b : Bool) : getBit (putBit sreg i b) i = b := by
  rw [getBit_putBit, if_pos rfl]

/-! ### The check at an instruction boundary (R435) -/

theorem endInhibit_eq (wasSei : Bool) (s : State) :
    endInhibit wasSei s = { s with irqInhibit := wasSei && s.irqInhibit } := by
  cases wasSei <;> rfl

theorem acceptsInterrupt_iff (s : State) : acceptsInterrupt s = true ↔
    (s.run = .running ∨ s.run = .sleeping) ∧ s.flag flagI = true ∧ s.irqInhibit = false := by
  simp only [acceptsInterrupt, Bool.and_eq_true, Bool.or_eq_true, decide_eq_true_eq, Bool.not_eq_true', and_assoc]

/-- The tick changes nothing that decides about acceptance. -/
theorem acceptsInterrupt_devTick_iff (wasSei : Bool) (s : State) :
    acceptsInterrupt (endInhibit wasSei (devTick s)) = true ↔
      (s.run = .running ∨ s.run = .sleeping) ∧ s.flag flagI = true ∧ (wasSei && s.irqInhibit) = false := by
  rw [acceptsInterrupt_iff, endInhibit_eq, devTick_eq]
  rfl

section Boundary

variable {wasSei : Bool} {s : State}

theorem boundary_reset (h : devResetRequested (devTick s) = true) :
    boundary wasSei s = .ok () (applyReset (devTick s)) := if_pos h

/-- An accepted request. -/
theorem boundary_enter {r : Request} (noReset : devResetRequested (devTick s) = false)
    (irq : devIrq (endInhibit wasSei (devTick s)) = some r)
    (accepts : acceptsInterrupt (endInhibit wasSei (devTick s)) = true) :
    boundary wasSei s = interruptEntry r (endInhibit wasSei (devTick s)) := by
  simp only [boundary, noReset, irq, accepts, Bool.false_eq_true, if_false, if_true]

/-- No request, or none that is accepted. -/
theorem boundary_quiet (noReset : devResetRequested (devTick s) = false)
    (h : devIrq (endInhibit wasSei (devTick s)) = none ∨ acceptsInterrupt (endInhibit wasSei (devTick s)) = false) :
    boundary wasSei s = .ok () (endInhibit wasSei (devTick s)) := by
  cases irq : devIrq (endInhibit wasSei (devTick s)) with
  | none => simp only [boundary, noReset, irq, Bool.false_eq_true, if_false]
  | some r =>
    have refused := h.resolve_left (by rw [irq]; exact Option.some_ne_none r)
    simp only [boundary, noReset, irq, refused, Bool.false_eq_true, if_false]

/-- The inhibit survives the check only where the instruction was SEI. -/
theorem boundary_irqInhibit {t : State} (h : boundary wasSei s = .ok () t) (inhibit : t.irqInhibit = true) :
    wasSei = true := by
  have ended : (endInhibit wasSei (devTick s)).irqInhibit = true → wasSei = true := fun k => by
    rw [endInhibit_eq] at k
    exact (Bool.and_eq_true_iff.1 k).1
  rcases boundary_ok h with ⟨-, rfl⟩ | rfl | ⟨r, -, entered⟩
  · cases inhibit
  · exact ended inhibit
  · exact ended ((interruptEntry_irqInhibit entered).symm.trans inhibit)

end Boundary

/-- Settles O16: the check that ends every step clears the inhibit, but after the SEI word; a sleeping core executes no
word. -/
theorem inhibitOnlyAfterSei : Obligations.InhibitOnlyAfterSei := by
  intro s t h inhibit
  rcases step_next h with ⟨-, checked⟩ | ⟨running, w, i, u, fetched, -, checked⟩
  · cases boundary_irqInhibit checked inhibit
  · have sei : w = seiWord := of_decide_eq_true (boundary_irqInhibit checked inhibit)
    exact ⟨running, (fetch_word fetched).symm.trans sei⟩

/-- Settles O17: the three ends of the check, by who asks and whether the core accepts. -/
theorem interruptAcceptance : Obligations.InterruptAcceptance := by
  intro wasSei s
  refine ⟨boundary_reset, fun noReset => ⟨endInhibit wasSei (devTick s), ?after, ?entered, ?quiet⟩⟩
  case after =>
    rw [endInhibit_eq, devTick_eq]
  case entered =>
    intro r irq run flag inhibit
    refine boundary_enter noReset irq ((acceptsInterrupt_devTick_iff wasSei s).2 ⟨run, flag, ?_⟩)
    cases wasSei with
    | false => rfl
    | true => exact inhibit rfl
  case quiet =>
    intro h
    refine boundary_quiet noReset (or_iff_not_imp_left.2 fun irq => ?_)
    rw [← Bool.not_eq_true, acceptsInterrupt_devTick_iff]
    rintro ⟨run, flag, inhibit⟩
    rcases h with stopped | masked | none | ⟨sei, inhibited⟩
    · rw [stopped] at run
      rcases run with run | run <;> cases run
    · rw [masked] at flag
      cases flag
    · exact irq none
    · rw [sei, inhibited] at inhibit
      cases inhibit

/-- Settles O18: the run state decides the step, and the sleeping core's check ends in one of its three ways. -/
theorem notRunningSteps : Obligations.NotRunningSteps := by
  intro s
  refine ⟨step_stopped, fun _ => step_faulted, step_sleeping, ?wakes, fun sleeping reset =>
    step_sleeping_ok sleeping (boundary_reset reset), ?sleepsOn⟩
  case wakes =>
    rintro r u t sleeping flag noReset rfl irq entered
    have accepts := (acceptsInterrupt_devTick_iff false s).2 ⟨.inr sleeping, flag, rfl⟩
    have checked := (boundary_enter (wasSei := false) noReset irq accepts).trans entered
    exact ⟨step_sleeping_ok sleeping checked, interruptEntry_run entered⟩
  case sleepsOn =>
    intro sleeping masked noReset
    have refused : acceptsInterrupt (endInhibit false (devTick s)) = false := by
      rw [← Bool.not_eq_true, acceptsInterrupt_devTick_iff, masked]
      exact fun ⟨_, flag, _⟩ => Bool.false_ne_true flag
    refine ⟨_, step_sleeping_ok sleeping (boundary_quiet noReset (.inr refused)), rfl, ?_⟩
    rw [devTick_eq]
    exact ⟨sleeping, rfl, rfl, rfl, rfl, rfl, rfl⟩

end Sys2Proof.Machine

namespace Sys2Proof.Laws

open Sys2Proof Sys2Proof.Machine

/-- Settles O19: the entry is `PushPC`, whose bytes are known where the stack lies in SRAM, and after it the
acknowledgement, SREG, run state and PC. -/
theorem interruptEntry : Obligations.InterruptEntry := by
  intro r s
  refine ⟨fun b _ bytes => ?sram, fun u pushed => ?pushed, fun f u => interruptEntry_stop r⟩
  case sram =>
    have entered := interruptEntry_pushed r (pushPc_sram s.pc bytes)
    rw [devAck_eq] at entered
    exact ⟨_, _, pushedPc_pushedSram s.pc bytes, entered, rfl, rfl, rfl, rfl, getBit_putBit_self s.sreg flagI false,
      putBit_kept s.sreg flagI false, rfl, wrapPc_toNat s.cfg r.vector, devAck_dev_congr r.source rfl rfl, rfl⟩
  case pushed =>
    have cfg : u.cfg = s.cfg := (Keeps.pushPc pushed).1.control.cfg
    refine ⟨_, interruptEntry_pushed r pushed, getBit_putBit_self u.sreg flagI false, putBit_kept u.sreg flagI false,
      rfl, ?_, rfl⟩
    rw [← cfg]
    exact wrapPc_toNat u.cfg r.vector

end Sys2Proof.Laws

namespace Sys2Proof.Machine

/-! SUPPORT. The statements of 70_reset_and_hazards.md: the length of an instruction, and the interrupt delay after SEI
and the mask after CLI. -/

open Sys2Proof

/-! ### The length of an instruction (R482) -/

/-- The instructions of two words. -/
theorem encode_length_eq_two_iff (i : Instr) : (encode i).length = 2 ↔
    (∃ k, i = .jmp k) ∨ (∃ k, i = .call k) ∨ (∃ d k, i = .lds d k) ∨ (∃ k r, i = .sts k r) := by
  cases i with
  | jmp k => exact iff_of_true rfl (.inl ⟨k, rfl⟩)
  | call k => exact iff_of_true rfl (.inr (.inl ⟨k, rfl⟩))
  | lds d k => exact iff_of_true rfl (.inr (.inr (.inl ⟨d, k, rfl⟩)))
  | sts k r => exact iff_of_true rfl (.inr (.inr (.inr ⟨k, r, rfl⟩)))
  | _ => exact iff_of_false (by decide : (1 : Nat) ≠ 2) nofun

/-- The two-word test on the first word tells the number of words. -/
theorem encode_length_of_decode {core : Core} {w w2 : Word} {i : Instr} (h : decode core w w2 = some i) :
    (encode i).length = if isTwoWord w then 2 else 1 := by
  obtain ⟨-, -, -, words⟩ := encodeDecode core w w2 i h
  rw [words]
  cases isTwoWord w <;> rfl

/-- Settles O3: the test tells the number of words, and the number of words tells the four instructions. -/
theorem lengthByFirstWord : Obligations.LengthByFirstWord := by
  intro core w w2 i h
  have length := encode_length_of_decode h
  refine ⟨?_, length⟩
  rw [← encode_length_eq_two_iff, length]
  cases isTwoWord w <;> decide

/-! ### The words of SEI and CLI (R435, R474) -/

/-- Whether a reset is requested after the tick depends on the device and its kind only. -/
theorem devResetRequested_devTick_congr {s t : State} (cfg : t.cfg = s.cfg) (dev : t.dev = s.dev) :
    devResetRequested (devTick t) = devResetRequested (devTick s) := by
  simp only [devResetRequested, devTick, State.setHidden, cfg, dev]
  cases s.cfg.device <;> rfl

/-- The SEI word (`v` true) and the CLI word. -/
def flagIWord (v : Bool) : Word := if v then 0x9478 else 0x94F8

/-- They are BSET 7 and BCLR 7 on every core, whatever word comes after. -/
theorem decode_flagIWord (core : Core) (v : Bool) (w2 : Word) :
    decode core (flagIWord v) w2 = some (if v then .bset 7 else .bclr 7) := by
  cases v <;> rfl

theorem isTwoWord_flagIWord (v : Bool) : isTwoWord (flagIWord v) = false := by
  cases v <;> decide

/-- Only the first is the word after which the inhibit stays. -/
theorem flagIWord_eq_sei (v : Bool) : decide (flagIWord v = 0x9478) = v := by
  cases v <;> decide

/-- After the tick nothing is entered: the SEI word leaves the inhibit set, the CLI word leaves I clear. -/
theorem boundary_flagI {v : Bool} {t : State} (noReset : devResetRequested (devTick t) = false)
    (flag : t.flag flagI = v) (inhibit : v = true → t.irqInhibit = true) :
    boundary v t = .ok () { t with dev := (devTick t).dev, irqInhibit := v } := by
  obtain ⟨u, hu, -, quiet⟩ := (interruptAcceptance v t).2 noReset
  have refused : boundary v t = .ok () u := by
    cases v with
    | false => exact quiet (.inr (.inl flag))
    | true => exact quiet (.inr (.inr (.inr ⟨rfl, inhibit rfl⟩)))
  have kept : (v && t.irqInhibit) = v := by
    cases v with
    | false => rfl
    | true => exact inhibit rfl
  rw [refused, hu, kept, devTick_eq]

/-- A step at the SEI word or the CLI word, by O7: its meaning, then a check that enters no interrupt. -/
theorem step_flagIWord (v : Bool) {s : State} (running : s.run = .running) (within : s.pc.toNat ≤ s.cfg.flashEnd)
    (noReset : devResetRequested (devTick s) = false) (word : s.progWord s.pc.toNat = flagIWord v)
    (ha : admits s.cfg (if v then .bset 7 else .bclr 7) = true) :
    ∃ t, step s = .next t ∧ t.irqInhibit = v ∧ t.flag flagI = v ∧ FlagsKept [flagI] s.sreg t.sreg ∧
      PcPlus s t 1 ∧ t.sp = s.sp ∧ t.sram = s.sram ∧ t.regs = s.regs ∧ t.run = .running := by
  obtain ⟨t, executed, flag, kept, -, -, rest, inhibit, next⟩ :=
    flagInstructions flagI v (if v then .bset 7 else .bclr 7) s (by
      cases v with
      | false => exact .inr (.inl ⟨rfl, rfl⟩)
      | true => exact .inl ⟨rfl, rfl⟩)
  have checked : boundary v t = .ok () { t with dev := (devTick t).dev, irqInhibit := v } := by
    refine boundary_flagI ?_ flag fun set => ?_
    · rw [devResetRequested_devTick_congr (s := s) (by rw [rest]) (by rw [rest]), noReset]
    · rw [inhibit, set]
      exact Bool.or_true _
  have stepped : step s = (boundary v t).outcome := by
    rw [stepRunsDecoded s _ running within (by rw [word, decode_flagIWord]) ha
      (by rw [word, isTwoWord_flagIWord]; exact nofun), executed, word, flagIWord_eq_sei]
  refine ⟨_, stepped.trans (congrArg Res.outcome checked), rfl, flag, kept, next, ?_⟩
  rw [rest]
  exact ⟨rfl, rfl, rfl, running⟩

/-- Settles O15: the two words, one argument. -/
theorem seiDelaysInterrupts : Obligations.SeiDelaysInterrupts := fun _ running within noReset =>
  ⟨step_flagIWord true running within noReset, step_flagIWord false running within noReset⟩

end Sys2Proof.Machine
